-- ==== Sys2Proof/Word.lean ====
section
/-! DEFINITION. The word types of the header bit-field unpacker (00_scope.md R6, R7, R10). -/

namespace Sys2Proof

/-- One byte of SRC or DST (20_memory.md R40, R50). -/
abbrev Byte := BitVec 8

/-- One 8-byte word of the word sequence, byte `j` in bits `8j+7:8j` (20_memory.md R46). -/
abbrev SrcWord := BitVec 64

/-- A 32-bit command word (30_encoding.md R73). -/
abbrev Command := BitVec 32

end Sys2Proof
end

