-- ==== Sys2Proof/Config.lean ====
section
/-! DEFINITION. Parameters of the unit (00_scope.md R7) and the one constant the model chooses.

The four open parameters of 00_scope.md R8 (`REG_MAP`, `SRC_BINDING`, `DST_BINDING`, `ISSUE_PROTOCOL`) do not
appear: no rule depends on them and the rule lets a model ignore them (assumption log 12). -/

namespace Sys2Proof

/-- `ESZ_MAX`: the largest element byte size a command can name (R7). -/
def Config.eszMax : Nat := 8

/-- SRC and DST byte indices are below 2^35 (20_memory.md R40, R51). -/
def Config.addressSpace : Nat := 2 ^ 35

/-- What a byte of SRC or DST reads as when nobody has written it. The spec gives the contents of the two
spaces after reset no value (10_state.md R33). DESIGN CHOICE, unsafe: assumption log 1. -/
def Config.unlistedByte : Byte := 0

end Sys2Proof
end

