-- ==== Sys2Proof/Syntax.lean ====
section
/-! DEFINITION. The nine operations (30_encoding.md R74), one constructor for each row of the opcode table. -/

namespace Sys2Proof

/-- An operation with its command fields: `esz` is the field `ESZ` (R75), `w` the bit `W` (R76). An operation
whose row fixes a field has no argument for it. -/
inductive Instr where
  /-- PARSE (40_header_unpack.md R89) -/
  | parse
  /-- ISIMG (R93) -/
  | isimg (w : Bool)
  /-- GETW (R94) -/
  | getw (w : Bool)
  /-- GETH (R95) -/
  | geth (w : Bool)
  /-- CNT.IMG (41_element_count.md R101) -/
  | cntImg (w : Bool)
  /-- CNT.T (R102) -/
  | cntT (esz : BitVec 4) (w : Bool)
  /-- EXPAND (42_bitplane_expand.md R112) -/
  | expand (esz : BitVec 4)
  /-- DEC.BUF (43_payload_decode.md R124) -/
  | decBuf (esz : BitVec 4) (w : Bool)
  /-- DEC.FIX (R125) -/
  | decFix (esz : BitVec 4) (w : Bool)
  deriving DecidableEq, Repr

/-- The `ESZ` field of the command, 0 for the five operations that take no element type (R75, R81). -/
def Instr.eszField : Instr → BitVec 4
  | .parse | .isimg _ | .getw _ | .geth _ | .cntImg _ => 0
  | .cntT e _ | .expand e | .decBuf e _ | .decFix e _ => e

/-- The `W` bit of the command, 0 for PARSE and EXPAND (R76). -/
def Instr.wBit : Instr → Bool
  | .parse | .expand _ => false
  | .isimg w | .getw w | .geth w | .cntImg w | .cntT _ w | .decBuf _ w | .decFix _ w => w

/-- The same operation with `W = 0`, the `X` of `X.W` (40_header_unpack.md R96). -/
def Instr.plain : Instr → Instr
  | .parse => .parse
  | .isimg _ => .isimg false
  | .getw _ => .getw false
  | .geth _ => .geth false
  | .cntImg _ => .cntImg false
  | .cntT e _ => .cntT e false
  | .expand e => .expand e
  | .decBuf e _ => .decBuf e false
  | .decFix e _ => .decFix e false

/-- The mnemonic of the operation's row (R74). -/
def Instr.mnemonic : Instr → String
  | .parse => "PARSE"
  | .isimg _ => "ISIMG"
  | .getw _ => "GETW"
  | .geth _ => "GETH"
  | .cntImg _ => "CNT.IMG"
  | .cntT _ _ => "CNT.T"
  | .expand _ => "EXPAND"
  | .decBuf _ _ => "DEC.BUF"
  | .decFix _ _ => "DEC.FIX"

/-- Assembler text `MNEMONIC[.W] [s]` (R81). -/
def Instr.text (i : Instr) : String :=
  i.mnemonic ++ (if i.wBit then ".W" else "") ++
    (if i.eszField = 0 then "" else " " ++ toString i.eszField.toNat)

end Sys2Proof
end

