-- ==== Sys2Proof/WellFormed.lean ====
section
/-! DEFINITION. Which operations a legal command spells (30_encoding.md R75, R78). -/

namespace Sys2Proof

/-- A legal element size: 1 to 8 (R75). -/
abbrev legalEsz (esz : BitVec 4) : Prop := 1 ≤ esz.toNat ∧ esz.toNat ≤ Config.eszMax

/-- The operations that a legal command spells: a sized operation needs a legal element size (R78). -/
def Instr.wellFormed : Instr → Bool
  | .parse | .isimg _ | .getw _ | .geth _ | .cntImg _ => true
  | .cntT e _ | .expand e | .decBuf e _ | .decFix e _ => decide (legalEsz e)

end Sys2Proof
end

