-- ==== Sys2Proof/Decode.lean ====
section
/-! DEFINITION. The command word: decoder, encoder and the opcode map (30_encoding.md R73 to R80). -/

namespace Sys2Proof

/-- Why a 32-bit value is no legal command (30_encoding.md R78). Every one of them is reported by the one fault
code `IllegalCommand`; the reasons are told apart here so that the decoder rejects by name. -/
inductive IllegalReason where
  /-- a bit of 31:9 is set (R77) -/
  | reservedBits
  /-- `OP` is 0 or 10 to 15 (R74) -/
  | noSuchOperation
  /-- `ESZ` is not 0 on an operation without an element type (R75) -/
  | elementSizeNotZero
  /-- `ESZ` is 0 or 9 to 15 on an operation with an element type (R75) -/
  | elementSizeOutOfRange
  /-- `W` is 1 on PARSE or EXPAND (R76) -/
  | wordsFirstNotAllowed
  deriving DecidableEq, Repr

/-- Field `OP`, bits 3:0 (R73). -/
def cmdOp (c : Command) : BitVec 4 := c.extractLsb' 0 4
/-- Field `ESZ`, bits 7:4 (R73). -/
def cmdEsz (c : Command) : BitVec 4 := c.extractLsb' 4 4
/-- Field `W`, bit 8 (R73). -/
def cmdW (c : Command) : Bool := c.getLsbD 8
/-- Field `ZERO`, bits 31:9 (R73). -/
def cmdZero (c : Command) : BitVec 23 := c.extractLsb' 9 23

/-- An operation that takes no element type: `ESZ` must be 0 (R75). -/
def decodeUnsized (esz : BitVec 4) (i : Instr) : Except IllegalReason Instr :=
  if esz = 0 then .ok i else .error .elementSizeNotZero

/-- An operation that takes an element type: `ESZ` must be 1 to 8 (R75). -/
def decodeSized (esz : BitVec 4) (i : Instr) : Except IllegalReason Instr :=
  if legalEsz esz then .ok i else .error .elementSizeOutOfRange

/-- An operation on which `W` must be 0 (R76). -/
def decodeNoW (w : Bool) (r : Except IllegalReason Instr) : Except IllegalReason Instr :=
  if w then .error .wordsFirstNotAllowed else r

/-- The command decoder. It is total: every 32-bit value is one legal operation or is rejected by name (R78). -/
def decode (c : Command) : Except IllegalReason Instr :=
  if cmdZero c ≠ 0 then .error .reservedBits
  else match (cmdOp c).toNat with
    | 1 => decodeNoW (cmdW c) (decodeUnsized (cmdEsz c) .parse)
    | 2 => decodeUnsized (cmdEsz c) (.isimg (cmdW c))
    | 3 => decodeUnsized (cmdEsz c) (.getw (cmdW c))
    | 4 => decodeUnsized (cmdEsz c) (.geth (cmdW c))
    | 5 => decodeUnsized (cmdEsz c) (.cntImg (cmdW c))
    | 6 => decodeSized (cmdEsz c) (.cntT (cmdEsz c) (cmdW c))
    | 7 => decodeNoW (cmdW c) (decodeSized (cmdEsz c) (.expand (cmdEsz c)))
    | 8 => decodeSized (cmdEsz c) (.decBuf (cmdEsz c) (cmdW c))
    | 9 => decodeSized (cmdEsz c) (.decFix (cmdEsz c) (cmdW c))
    | _ => .error .noSuchOperation

/-- The opcode number of each operation (R74). -/
def Instr.op : Instr → BitVec 4
  | .parse => 0x1
  | .isimg _ => 0x2
  | .getw _ => 0x3
  | .geth _ => 0x4
  | .cntImg _ => 0x5
  | .cntT _ _ => 0x6
  | .expand _ => 0x7
  | .decBuf _ _ => 0x8
  | .decFix _ _ => 0x9

/-- The command word of an operation: the fields of R73 side by side. -/
def encode (i : Instr) : Command :=
  0#23 ++ (BitVec.ofBool i.wBit ++ (i.eszField ++ i.op))

/-- One row of the opcode map (R74): a command `c` selects it when `c &&& mask = pattern`; `sized` says that the
operation takes an element size. -/
structure OpcodeRow where
  mnemonic : String
  pattern : Command
  mask : Command
  sized : Bool
  deriving DecidableEq, Repr

/-- The opcode map as the spec prints it (R74). The decoder does not read it: that the two agree is a claim. -/
def opcodeMap : List OpcodeRow :=
  [⟨"PARSE", 0x00000001, 0xFFFFFFFF, false⟩,
   ⟨"ISIMG", 0x00000002, 0xFFFFFEFF, false⟩,
   ⟨"GETW", 0x00000003, 0xFFFFFEFF, false⟩,
   ⟨"GETH", 0x00000004, 0xFFFFFEFF, false⟩,
   ⟨"CNT.IMG", 0x00000005, 0xFFFFFEFF, false⟩,
   ⟨"CNT.T", 0x00000006, 0xFFFFFE0F, true⟩,
   ⟨"EXPAND", 0x00000007, 0xFFFFFF0F, true⟩,
   ⟨"DEC.BUF", 0x00000008, 0xFFFFFE0F, true⟩,
   ⟨"DEC.FIX", 0x00000009, 0xFFFFFE0F, true⟩]

/-- `c` selects the row (R74). -/
abbrev OpcodeRow.selectedBy (r : OpcodeRow) (c : Command) : Prop := c &&& r.mask = r.pattern

/-- `c` is a legal command that selects the row: it matches, and a sized row has `1 <= c[7:4] <= 8` (R78). -/
abbrev OpcodeRow.accepts (r : OpcodeRow) (c : Command) : Prop :=
  r.selectedBy c ∧ (r.sized = true → legalEsz (cmdEsz c))

/-- The instruction the decoder reads from a table row's bits (the host's question). A command is one 32-bit word,
so bits above `nbits` are 0 and bits above 31 do not exist. -/
def decodeTableWord (nbits w : Nat) : Option Instr :=
  match decode (BitVec.ofNat 32 (w % 2 ^ nbits)) with
  | .ok i => some i
  | .error _ => none

end Sys2Proof
end

