-- ==== Sys2Proof/Machine/State.lean ====
section
/-! DEFINITION. The state of the unit and of the host beside it, as plain data (10_state.md R15, R16), the reasons a
model step can stop, and the state after reset (R33). -/

namespace Sys2Proof.Machine

/-- The payload kinds (30_encoding.md R65). `H_KIND` can hold no other value (10_state.md R23, R30 (a)). -/
inductive Kind where
  | generic
  | image
  | dualColor
  deriving DecidableEq, Repr

/-- The outcomes that `STATUS.ERR` can report (60_exceptions.md R133), `ok` and twelve faults of the UNIT. They are
values of a register: a command that ends with one has a next state (R140). -/
inductive ErrCode where
  | ok
  | illegalCommand
  | headerNotLoaded
  | sourceRange
  | reservedKind
  | unsupportedKind
  | typeMismatch
  | bppRange
  | bitCountRange
  | planeMismatch
  | countNotPositive
  | capacityMismatch
  | bufferTooSmall
  deriving DecidableEq, Repr

/-- The header group, registers 8 to 14 (10_state.md R16, R22 to R25). -/
structure Header where
  kind : Kind
  bpp : BitVec 8
  bitCount : BitVec 32
  width : BitVec 16
  height : BitVec 16
  color0 : BitVec 32
  color1 : BitVec 32
  deriving DecidableEq, Repr

/-- The header group after reset: every register reads 0 (10_state.md R33). -/
def Header.zero : Header :=
  { kind := .generic, bpp := 0, bitCount := 0, width := 0, height := 0, color0 := 0, color1 := 0 }

/-- A byte space, SRC or DST: (index, byte) pairs in the one canonical form `Memory.wf` (Machine/Ops.lean). -/
abbrev Memory := List Host.Cell

/-- `len` bytes of SRC read from index `addr` on (20_memory.md R54). -/
structure SrcRead where
  addr : Nat
  len : Nat
  deriving DecidableEq, Repr

/-- A host that leaves the contract (assumption log 10). -/
inductive Breach where
  /-- SRC and DST, or the DST of two units, overlap in storage (20_memory.md R62; 93_implementation_defined.md U2) -/
  | storageOverlap
  /-- SRC is modified during an operation (70_reset_and_hazards.md R160; U3) -/
  | srcChangedInFlight
  /-- reset during an operation (70_reset_and_hazards.md R157; U22) -/
  | resetInFlight
  /-- `DST_CAP` set above the storage the host has (70_reset_and_hazards.md R163; U1; assumption log 15) -/
  | capacityUntruthful
  deriving DecidableEq, Repr

/-- One move of the host (00_scope.md R9; 70_reset_and_hazards.md R157, R168). -/
inductive HostMove where
  /-- write the bus value `v` to register `r`; register 31 is the command port (10_state.md R31, R34) -/
  | writeReg (r : BitVec 5) (v : BitVec 64)
  /-- read register `r` (R34) -/
  | readReg (r : BitVec 5)
  /-- read DST byte `a` (00_scope.md R9) -/
  | readDst (a : Nat)
  /-- the host writes a byte of the DST storage it owns (assumption log 8) -/
  | writeDst (a : Nat) (b : Byte)
  /-- replace the contents of SRC by a word sequence (00_scope.md R9; 20_memory.md R40) -/
  | supplySrc (ws : List SrcWord)
  /-- the reset event, between operations (70_reset_and_hazards.md R157) -/
  | resetUnit
  /-- leave the contract; always refused (assumption log 10) -/
  | breach (b : Breach)
  deriving DecidableEq, Repr

/-- What one read returned to the host. -/
inductive Reading where
  | reg (r : BitVec 5) (v : BitVec 64)
  | dst (a : Nat) (b : Byte)
  deriving DecidableEq, Repr

/-- The machine: the register file of 10_state.md R16, the two byte spaces of 20_memory.md R39, and the model's own
record of the host (assumption log 2, 3, 4). -/
structure State where
  /-- `SRC_LEN`, register 0 (R17) -/
  srcLen : BitVec 32
  /-- `SRC_OFF`, register 1 (R18) -/
  srcOff : BitVec 32
  /-- `N`, register 2 (R19) -/
  regN : BitVec 32
  /-- `PAL0`, register 3 (R20) -/
  pal0 : BitVec 64
  /-- `PAL1`, register 4 (R20) -/
  pal1 : BitVec 64
  /-- `DST_CAP`, register 5 (R21) -/
  dstCap : BitVec 32
  /-- the header group, registers 8 to 14 (R22) -/
  header : Header
  /-- `COUNT`, register 16 (R26) -/
  count : BitVec 32
  /-- `RESULT`, register 17 (R26) -/
  result : BitVec 32
  /-- `STATUS.ERR` (R28) -/
  err : ErrCode
  /-- `STATUS.HVALID` (R28) -/
  hvalid : Bool
  /-- `STATUS.DIMV` (R28) -/
  dimv : Bool
  /-- `STATUS.PALV` (R28) -/
  palv : Bool
  /-- `STATUS.RVALID` (R28) -/
  rvalid : Bool
  /-- the source space (20_memory.md R40) -/
  src : Memory
  /-- the destination space (20_memory.md R50) -/
  dst : Memory
  /-- model's own: the SRC reads made so far, oldest first (20_memory.md R54; assumption log 4) -/
  srcReads : List SrcRead
  /-- model's own: what the host has read so far, oldest first (70_reset_and_hazards.md R168; assumption log 3) -/
  readings : List Reading
  /-- model's own: the host moves still to come (70_reset_and_hazards.md R168; assumption log 2) -/
  moves : List HostMove
  deriving DecidableEq, Repr

/-- Reasons a step of the MODEL stops with a fault. No operation of the unit raises one: the unit's own faults are
values of `STATUS.ERR`. -/
inductive Fault where
  /-- Raised by a host move that names a byte of SRC or DST at index 2^35 or above, which does not exist
  (20_memory.md R40, R51; assumption log 9). Safe: the model stops. -/
  | outsideAddressSpace
  deriving DecidableEq, Repr

/-- Reasons a step of the MODEL is refused. -/
inductive Refusal where
  /-- Raised by an arm of `exec` that has no meaning yet; no arm does. Safe. -/
  | notModelled (mnemonic : String)
  /-- Raised by the host move `breach`: 93_implementation_defined.md says that a model refuses such a launch (U1,
  U2, U3, U22; assumption log 10). Safe: nothing is claimed of such a run. -/
  | outsideContract (b : Breach)
  deriving DecidableEq, Repr

/-- The unit right after reset: every register reads 0 and every flag is 0 (10_state.md R33, 70_reset_and_hazards.md
R158). Nothing is listed in SRC or DST (assumption log 1) and no host move is waiting (log 2). -/
def State.reset : State :=
  { srcLen := 0, srcOff := 0, regN := 0, pal0 := 0, pal1 := 0, dstCap := 0
    header := Header.zero, count := 0, result := 0
    err := .ok, hvalid := false, dimv := false, palv := false, rvalid := false
    src := [], dst := [], srcReads := [], readings := [], moves := [] }

end Sys2Proof.Machine
end

