-- ==== Sys2Proof/Machine/Operands.lean ====
section
/-! DEFINITION. Operand values: bytes of a value, header fields, element counts, selector bits (files 20, 30, 41, 42
of the spec). -/

namespace Sys2Proof.Machine

/-- `ceil8(v) = (v + 7) div 8` (00_scope.md R10). -/
def ceil8 (v : Nat) : Nat := (v + 7) / 8

/-- Byte `k` of a 64-bit value, bits `8k+7:8k` (00_scope.md R10, R11). -/
def byteOf (v : BitVec 64) (k : Nat) : Byte := v.extractLsb' (8 * k) 8

/-- The kind a `kind` byte spells; 3 to 255 spell none (30_encoding.md R65, R72). -/
def kindOfByte (b : Byte) : Option Kind :=
  match b.toNat with
  | 0 => some .generic
  | 1 => some .image
  | 2 => some .dualColor
  | _ => none

/-- The kind code as the host reads it in `H_KIND` (30_encoding.md R65). -/
def Kind.code : Kind → Byte
  | .generic => 0
  | .image => 1
  | .dualColor => 2

/-- `IsImage(kind)` (40_header_unpack.md R92). -/
def Kind.isImage : Kind → Bool
  | .generic => false
  | .image => true
  | .dualColor => true

/-- `HW(kind)`, the header length in words (30_encoding.md R66). -/
def Kind.headerWords : Kind → Nat
  | .generic => 1
  | .image => 2
  | .dualColor => 3

/-- `PayOff(kind) = 8 * HW(kind)` (43_payload_decode.md R120). -/
def Kind.payloadOffset (k : Kind) : Nat := 8 * k.headerWords

/-- `kind = W0[7:0]` (30_encoding.md R64, R70). -/
def fieldKind (w0 : SrcWord) : Byte := w0.extractLsb' 0 8
/-- `bpp = W0[15:8]` (R64, R70). -/
def fieldBpp (w0 : SrcWord) : Byte := w0.extractLsb' 8 8
/-- `bit_count = W0[63:32]` (R64, R70). -/
def fieldBitCount (w0 : SrcWord) : BitVec 32 := w0.extractLsb' 32 32
/-- `width = W1[15:0]` (R67, R70). -/
def fieldWidth (w1 : SrcWord) : BitVec 16 := w1.extractLsb' 0 16
/-- `height = W1[31:16]` (R67, R70). -/
def fieldHeight (w1 : SrcWord) : BitVec 16 := w1.extractLsb' 16 16
/-- `color0 = W2[31:0]` (R68, R70). -/
def fieldColor0 (w2 : SrcWord) : BitVec 32 := w2.extractLsb' 0 32
/-- `color1 = W2[63:32]` (R68, R70). -/
def fieldColor1 (w2 : SrcWord) : BitVec 32 := w2.extractLsb' 32 32

/-- The header of a Generic sequence: fields whose word is absent are written 0 (40_header_unpack.md R89). -/
def headerGeneric (w0 : SrcWord) : Header :=
  { Header.zero with kind := .generic, bpp := fieldBpp w0, bitCount := fieldBitCount w0 }

/-- The header of an Image sequence (R89). -/
def headerImage (w0 w1 : SrcWord) : Header :=
  { Header.zero with
    kind := .image, bpp := fieldBpp w0, bitCount := fieldBitCount w0
    width := fieldWidth w1, height := fieldHeight w1 }

/-- The header of a DualColorImage sequence (R89). -/
def headerDual (w0 w1 w2 : SrcWord) : Header :=
  { kind := .dualColor, bpp := fieldBpp w0, bitCount := fieldBitCount w0
    width := fieldWidth w1, height := fieldHeight w1
    color0 := fieldColor0 w2, color1 := fieldColor1 w2 }

/-- `ImageCount(H)`, the exact product (41_element_count.md R99, R103). -/
def imageCount (h : Header) : Nat := h.width.toNat * h.height.toNat

/-- `(bit_count div 8) div s` (R100, R104). -/
def spanCount (h : Header) (s : Nat) : Nat := h.bitCount.toNat / 8 / s

/-- `TypedCount(H, s)` (R100). -/
def typedCount (h : Header) (s : Nat) : Nat :=
  match h.kind with
  | .dualColor => imageCount h
  | .generic => spanCount h s
  | .image => spanCount h s

/-- Bit 31 of `bit_count`: the value is refused where it is used (41_element_count.md R102, 43_payload_decode.md
R123). -/
def bitCountTooLarge (h : Header) : Bool := h.bitCount.getLsbD 31

/-- A palette entry made of a packed colour: its byte `k` is the colour's stored byte `k` (43_payload_decode.md
R121). The write of an element takes the low `s` bytes of it, which drops the colour's other bytes. -/
def paletteEntry (color : BitVec 32) : BitVec 64 := color.setWidth 64

/-- The selector bit of lane `i mod 8` in a plane byte: most-significant bit first (42_bitplane_expand.md R109). -/
def selectorOfByte (b : Byte) (i : Nat) : Bool := b.getLsbD (7 - i % 8)

end Sys2Proof.Machine
end

