-- ==== Sys2Proof/Machine/Flags.lean ====
section
/-! DEFINITION. Fault codes, the flags of the header group, and the `STATUS` word (10_state.md R28 to R30,
60_exceptions.md R133). -/

namespace Sys2Proof.Machine

/-- The number of each fault code (60_exceptions.md R133). -/
def ErrCode.code : ErrCode → BitVec 5
  | .ok => 0
  | .illegalCommand => 1
  | .headerNotLoaded => 2
  | .sourceRange => 3
  | .reservedKind => 4
  | .unsupportedKind => 5
  | .typeMismatch => 6
  | .bppRange => 7
  | .bitCountRange => 8
  | .planeMismatch => 9
  | .countNotPositive => 10
  | .capacityMismatch => 11
  | .bufferTooSmall => 12

/-- `DIMV` as PARSE computes it: the kind has a width and a height (40_header_unpack.md R89). -/
def dimvOf (k : Kind) : Bool := k.isImage

/-- `PALV` as PARSE computes it: the kind has colours (R89). -/
def palvOf (k : Kind) : Bool := decide (k = .dualColor)

/-- The `STATUS` word: `ERR` in 4:0, `HVALID` 8, `DIMV` 9, `PALV` 10, `RVALID` 11, every other bit 0
(10_state.md R28). -/
def statusWord (err : ErrCode) (hvalid dimv palv rvalid : Bool) : BitVec 32 :=
  0#20 ++ (BitVec.ofBool rvalid ++ (BitVec.ofBool palv ++ (BitVec.ofBool dimv ++
    (BitVec.ofBool hvalid ++ (0#3 ++ err.code)))))

end Sys2Proof.Machine
end

