-- ==== Sys2Proof/Machine/Ops.lean ====
section
/-! DEFINITION. The named operations over the byte spaces and the registers: reads, writes, raising a fault, the
register file as the host sees it, the PARSE step, the W form, the element check, the expansion and the copy. -/

namespace Sys2Proof.Machine

/-! Byte spaces -/

/-- The byte of a space at an index. -/
def Memory.read (m : Memory) (a : Nat) : Byte :=
  match m with
  | [] => Config.unlistedByte
  | (x, b) :: rest => if x = a then b else Memory.read rest a

/-- A space without its entries for one index. -/
def Memory.erase (m : Memory) (a : Nat) : Memory := m.filter (fun c => decide (c.1 ≠ a))

/-- A new entry put before the first entry of a higher index. -/
def Memory.insert (m : Memory) (a : Nat) (b : Byte) : Memory :=
  match m with
  | [] => [(a, b)]
  | (x, c) :: rest => if a < x then (a, b) :: (x, c) :: rest else (x, c) :: Memory.insert rest a b

/-- Write one byte, keeping the canonical form: the value an unlisted index reads as is not listed. -/
def Memory.write (m : Memory) (a : Nat) (b : Byte) : Memory :=
  if b = Config.unlistedByte then Memory.erase m a else Memory.insert (Memory.erase m a) a b

/-- The canonical form: indices strictly rising, no entry equal to what an unlisted index reads as, every index in
the 35-bit range (20_memory.md R40, R51). -/
abbrev Memory.wf (m : Memory) : Prop :=
  m.Pairwise (fun p q => p.1 < q.1) ∧ ∀ c ∈ m, c.2 ≠ Config.unlistedByte ∧ c.1 < Config.addressSpace

/-- `MemRead(a, n)`: `n` bytes from index `a`, little-endian (00_scope.md R11, 20_memory.md R47). -/
def Memory.readLE (m : Memory) (a : Nat) : Nat → Nat
  | 0 => 0
  | n + 1 => Memory.readLE m a n + 256 ^ n * (Memory.read m (a + n)).toNat

/-- Word `k` of SRC, `MemRead(8k, 8)` (20_memory.md R40, R46). -/
def Memory.word (m : Memory) (k : Nat) : SrcWord := BitVec.ofNat 64 (Memory.readLE m (8 * k) 8)

/-- `MemWrite(a, n, v)`: byte `k` of `v` to index `a + k` for `k < n` (00_scope.md R11). -/
def Memory.writeLE (m : Memory) (a : Nat) (v : BitVec 64) : Nat → Memory
  | 0 => m
  | n + 1 => Memory.write (Memory.writeLE m a v n) (a + n) (byteOf v n)

/-- A word sequence laid out from index `a` on, each word in little-endian byte order (20_memory.md R40, R46). -/
def Memory.loadWords (m : Memory) (a : Nat) : List SrcWord → Memory
  | [] => m
  | w :: ws => Memory.loadWords (Memory.writeLE m a w 8) (a + 8) ws

/-- `Sel(a, i)`: the selector of element `i` in the plane that starts at index `a` (42_bitplane_expand.md R109). -/
def Memory.sel (m : Memory) (a i : Nat) : Bool := selectorOfByte (Memory.read m (a + i / 8)) i

/-- `Expand(n, a, p0, p1, s)` (42_bitplane_expand.md R111): element `i` is `p1` where its selector is 1 and `p0` where
it is 0, its low `s` bytes go to DST from index `i * s` on. -/
def expandInto (src dst : Memory) (a : Nat) (p0 p1 : BitVec 64) (s : Nat) : Nat → Memory
  | 0 => dst
  | n + 1 =>
    Memory.writeLE (expandInto src dst a p0 p1 s n) (n * s) (if Memory.sel src a n then p1 else p0) s

/-- `CopyVerbatim` (43_payload_decode.md R122), over the number of bytes `n * s`. -/
def copyInto (src dst : Memory) (a : Nat) : Nat → Memory
  | 0 => dst
  | k + 1 => Memory.write (copyInto src dst a k) k (Memory.read src (a + k))

/-! Ending an operation -/

/-- `raise F` (60_exceptions.md R140): the operation ends, `STATUS.ERR` takes the code, nothing else changes. This is
the unit's whole exception entry; there is no return (R142). -/
def State.raise (s : State) (e : ErrCode) : State := { s with err := e }

/-- `ok` (00_scope.md R11): the operation ends with `STATUS.ERR <- 0`. -/
def State.finish (s : State) : State := { s with err := .ok }

/-- The reads of a span: an empty span is no read (20_memory.md R42, R54). -/
def spanReads (addr len : Nat) : List SrcRead := if len = 0 then [] else [⟨addr, len⟩]

/-- Record that `len` bytes of SRC from `addr` on are read (20_memory.md R54). -/
def State.noteRead (s : State) (addr len : Nat) : State :=
  { s with srcReads := s.srcReads ++ spanReads addr len }

/-! The register file as the host sees it -/

/-- The `STATUS` register (10_state.md R28). -/
def State.status (s : State) : BitVec 32 := statusWord s.err s.hvalid s.dimv s.palv s.rvalid

/-- A host read of register `r`, zero-extended to the bus (10_state.md R16, R34). Reserved registers and `CMD` read
0. -/
def State.readReg (s : State) (r : BitVec 5) : BitVec 64 :=
  match r.toNat with
  | 0 => s.srcLen.setWidth 64
  | 1 => s.srcOff.setWidth 64
  | 2 => s.regN.setWidth 64
  | 3 => s.pal0
  | 4 => s.pal1
  | 5 => s.dstCap.setWidth 64
  | 8 => s.header.kind.code.setWidth 64
  | 9 => s.header.bpp.setWidth 64
  | 10 => s.header.bitCount.setWidth 64
  | 11 => s.header.width.setWidth 64
  | 12 => s.header.height.setWidth 64
  | 13 => s.header.color0.setWidth 64
  | 14 => s.header.color1.setWidth 64
  | 16 => s.count.setWidth 64
  | 17 => s.result.setWidth 64
  | 18 => s.status.setWidth 64
  | _ => 0

/-- A host write of the bus value `v` to register `r`, truncated to the register (10_state.md R34). A read-only or
reserved register ignores it. Register 31 is the command port and is not reached through here
(Machine/HostPort.lean). -/
def State.writeReg (s : State) (r : BitVec 5) (v : BitVec 64) : State :=
  match r.toNat with
  | 0 => { s with srcLen := v.setWidth 32 }
  | 1 => { s with srcOff := v.setWidth 32 }
  | 2 => { s with regN := v.setWidth 32 }
  | 3 => { s with pal0 := v }
  | 4 => { s with pal1 := v }
  | 5 => { s with dstCap := v.setWidth 32 }
  | _ => s

/-! The PARSE step and the W form -/

/-- The read of header word `k` (40_header_unpack.md R90). -/
def headerRead (k : Nat) : SrcRead := ⟨8 * k, 8⟩

/-- The Header of kind `k` as PARSE takes it: slices of the header words, each read as one 64-bit value (20_memory.md
R46, 30_encoding.md R70). -/
def headerOfWords (k : Kind) (m : Memory) : Header :=
  match k with
  | .generic => headerGeneric (Memory.word m 0)
  | .image => headerImage (Memory.word m 0) (Memory.word m 1)
  | .dualColor => headerDual (Memory.word m 0) (Memory.word m 1) (Memory.word m 2)

/-- The Header of kind `k` by the other width of access: each field's bytes read one by one and assembled
little-endian (20_memory.md R47). R49 says that it is the same Header as `headerOfWords`; PARSE does not use it. -/
def headerOfBytes (k : Kind) (m : Memory) : Header :=
  { kind := k
    bpp := BitVec.ofNat 8 (Memory.readLE m 1 1)
    bitCount := BitVec.ofNat 32 (Memory.readLE m 4 4)
    width := if k.isImage then BitVec.ofNat 16 (Memory.readLE m 8 2) else 0
    height := if k.isImage then BitVec.ofNat 16 (Memory.readLE m 10 2) else 0
    color0 := if k = .dualColor then BitVec.ofNat 32 (Memory.readLE m 16 4) else 0
    color1 := if k = .dualColor then BitVec.ofNat 32 (Memory.readLE m 20 4) else 0 }

/-- PARSE's unpacking (40_header_unpack.md R89): the header words it reads, in order, and the Header or the fault. -/
def unpackHeader (srcLen : BitVec 32) (src : Memory) : List SrcRead × Except ErrCode Header :=
  if srcLen.toNat < 1 then ([], .error .sourceRange)
  else match kindOfByte (fieldKind (Memory.word src 0)) with
    | none => ([headerRead 0], .error .reservedKind)
    | some .generic => ([headerRead 0], .ok (headerOfWords .generic src))
    | some .image =>
      if srcLen.toNat < 2 then ([headerRead 0], .error .sourceRange)
      else ([headerRead 0, headerRead 1], .ok (headerOfWords .image src))
    | some .dualColor =>
      if srcLen.toNat < 2 then ([headerRead 0], .error .sourceRange)
      else if srcLen.toNat < 3 then ([headerRead 0, headerRead 1], .error .sourceRange)
      else ([headerRead 0, headerRead 1, headerRead 2], .ok (headerOfWords .dualColor src))

/-- PARSE's commit, all at once (40_header_unpack.md R89, R91). -/
def State.commitHeader (s : State) (h : Header) : State :=
  { s with header := h, hvalid := true, dimv := dimvOf h.kind, palv := palvOf h.kind }

/-- The whole PARSE operation (40_header_unpack.md R89): the header reads are recorded, then the Header is committed or
the fault raised. -/
def parseStep (s : State) : State :=
  let s' := { s with srcReads := s.srcReads ++ (unpackHeader s.srcLen s.src).1 }
  match (unpackHeader s.srcLen s.src).2 with
  | .error e => s'.raise e
  | .ok h => (s'.commitHeader h).finish

/-- The W form of an operation (40_header_unpack.md R96): PARSE, and then the operation if PARSE ended with `ERR = 0`. -/
def wForm (w : Bool) (op : State → State) (s : State) : State :=
  if w then (if (parseStep s).err = .ok then op (parseStep s) else parseStep s) else op s

/-- An operation that takes a header: `HeaderNotLoaded` while `HVALID = 0` (10_state.md R22, R29). -/
def needHeader (s : State) (op : State → State) : State :=
  if s.hvalid then op s else s.raise .headerNotLoaded

/-- A sized operation: an element size outside 1 to 8 is `IllegalCommand`, before everything else (30_encoding.md R75,
R78; 60_exceptions.md R137 (1)). The decoder lets no such operation through (assumption log 7). -/
def needEsz (esz : BitVec 4) (s : State) (op : Nat → State) : State :=
  if legalEsz esz then op esz.toNat else s.raise .illegalCommand

/-- The SRC span check of EXPAND and the decodes: an empty span never faults, else its last byte lies below
`8 * SRC_LEN` (20_memory.md R42). -/
def spanInSource (s : State) (a span : Nat) : Bool :=
  decide (span = 0) || decide (a + span ≤ 8 * s.srcLen.toNat)

end Sys2Proof.Machine
end

