-- ==== Sys2Proof/Machine/BitPlane.lean ====
section
/-! DEFINITION. EXPAND (42_bitplane_expand.md). -/

namespace Sys2Proof.Machine

/-- The body of EXPAND (R112). -/
def expandStep (sz : Nat) (s : State) : State :=
  if s.regN.toNat > s.dstCap.toNat then s.raise .bufferTooSmall
  else if spanInSource s s.srcOff.toNat (ceil8 s.regN.toNat) = false then s.raise .sourceRange
  else
    { s.noteRead s.srcOff.toNat (ceil8 s.regN.toNat) with
      dst := expandInto s.src s.dst s.srcOff.toNat s.pal0 s.pal1 sz s.regN.toNat
      err := .ok }

/-- EXPAND (R112). -/
def execExpand (esz : BitVec 4) (s : State) : Host.Outcome State Fault Refusal :=
  .next (needEsz esz s fun sz => expandStep sz s)

end Sys2Proof.Machine
end

