-- ==== Sys2Proof/Machine/ElementCount.lean ====
section
/-! DEFINITION. CNT.IMG, CNT.T (41_element_count.md). -/

namespace Sys2Proof.Machine

/-- `COUNT <- n; ok`. The count fits the register (R103, R104). -/
def State.giveCount (s : State) (n : Nat) : State :=
  { s with count := BitVec.ofNat 32 n, err := .ok }

/-- The body of CNT.IMG (R101). -/
def cntImgStep (s : State) : State :=
  needHeader s fun s =>
    if s.header.kind = .generic then s.raise .unsupportedKind else s.giveCount (imageCount s.header)

/-- The body of CNT.T (R102): `BitCountRange` only where `bit_count` is used. -/
def cntTStep (sz : Nat) (s : State) : State :=
  needHeader s fun s =>
    if s.header.kind ≠ .dualColor ∧ bitCountTooLarge s.header = true then s.raise .bitCountRange
    else s.giveCount (typedCount s.header sz)

/-- CNT.IMG (R101). -/
def execCntImg (w : Bool) (s : State) : Host.Outcome State Fault Refusal :=
  .next (wForm w cntImgStep s)

/-- CNT.T (R102). -/
def execCntT (esz : BitVec 4) (w : Bool) (s : State) : Host.Outcome State Fault Refusal :=
  .next (needEsz esz s fun sz => wForm w (cntTStep sz) s)

end Sys2Proof.Machine
end

