-- ==== Sys2Proof/Machine/HeaderUnpack.lean ====
section
/-! DEFINITION. PARSE, ISIMG, GETW, GETH (40_header_unpack.md). -/

namespace Sys2Proof.Machine

/-- PARSE (R89). -/
def execParse (s : State) : Host.Outcome State Fault Refusal := .next (parseStep s)

/-- `RESULT <- v; RVALID <- 1; ok` -/
def State.giveResult (s : State) (v : BitVec 32) : State :=
  { s with result := v, rvalid := true, err := .ok }

/-- `RESULT <- 0; RVALID <- 0; ok`: the accessor has no answer for this header (R94). -/
def State.giveNoResult (s : State) : State :=
  { s with result := 0, rvalid := false, err := .ok }

/-- The body of ISIMG (R93). -/
def isimgStep (s : State) : State :=
  needHeader s fun s => s.giveResult (if s.header.kind.isImage then 1 else 0)

/-- The shared body of GETW and GETH: a field of an image header, zero-extended, else no answer (R94, R95). -/
def accessorStep (field : Header → BitVec 16) (s : State) : State :=
  needHeader s fun s =>
    if s.header.kind.isImage then s.giveResult ((field s.header).setWidth 32) else s.giveNoResult

/-- ISIMG (R93). -/
def execIsimg (w : Bool) (s : State) : Host.Outcome State Fault Refusal :=
  .next (wForm w isimgStep s)

/-- GETW (R94). -/
def execGetw (w : Bool) (s : State) : Host.Outcome State Fault Refusal :=
  .next (wForm w (accessorStep Header.width) s)

/-- GETH (R95). -/
def execGeth (w : Bool) (s : State) : Host.Outcome State Fault Refusal :=
  .next (wForm w (accessorStep Header.height) s)

end Sys2Proof.Machine
end

