-- ==== Sys2Proof/Machine/PayloadDecode.lean ====
section
/-! DEFINITION. DEC.BUF, DEC.FIX (43_payload_decode.md). -/

namespace Sys2Proof.Machine

/-- What `DecodeResolve` returns (R123): the element count, the payload offset, the number of SRC bytes the data path
reads. -/
structure Resolved where
  n : Nat
  off : Nat
  span : Nat
  deriving DecidableEq, Repr

/-- `DecodeResolve(s)` after its `HVALID` check (R123). -/
def decodeResolve (h : Header) (sz : Nat) : Except ErrCode Resolved :=
  if h.kind = .dualColor ∧ h.bpp.toNat ≠ sz then .error .typeMismatch
  else if h.kind = .dualColor ∧ (h.bpp.toNat < 1 ∨ h.bpp.toNat > 4) then .error .bppRange
  else if bitCountTooLarge h = true then .error .bitCountRange
  else if h.kind = .dualColor ∧ h.bitCount.toNat ≠ typedCount h sz then .error .planeMismatch
  else .ok
    { n := typedCount h sz
      off := h.kind.payloadOffset
      span := if h.kind = .dualColor then ceil8 (typedCount h sz) else typedCount h sz * sz }

/-- The dispatch of R119: expansion for DualColorImage, verbatim copy for the other kinds. -/
def decodeInto (s : State) (sz : Nat) (r : Resolved) : Memory :=
  match s.header.kind with
  | .dualColor =>
    expandInto s.src s.dst r.off (paletteEntry s.header.color0) (paletteEntry s.header.color1) sz r.n
  | .generic => copyInto s.src s.dst r.off (r.n * sz)
  | .image => copyInto s.src s.dst r.off (r.n * sz)

/-- The end of a decode after its count checks (R124, R125): the span check, the data path, `COUNT`. -/
def decodeDeliver (s : State) (sz : Nat) (r : Resolved) : State :=
  if spanInSource s r.off r.span = false then s.raise .sourceRange
  else
    { s.noteRead r.off r.span with
      dst := decodeInto s sz r
      count := BitVec.ofNat 32 r.n
      err := .ok }

/-- The body of DEC.BUF (R124). -/
def decBufStep (sz : Nat) (s : State) : State :=
  needHeader s fun s =>
    match decodeResolve s.header sz with
    | .error e => s.raise e
    | .ok r => if r.n > s.dstCap.toNat then s.raise .bufferTooSmall else decodeDeliver s sz r

/-- The body of DEC.FIX (R125). -/
def decFixStep (sz : Nat) (s : State) : State :=
  needHeader s fun s =>
    match decodeResolve s.header sz with
    | .error e => s.raise e
    | .ok r =>
      if r.n = 0 then s.raise .countNotPositive
      else if r.n ≠ s.dstCap.toNat then s.raise .capacityMismatch
      else decodeDeliver s sz r

/-- DEC.BUF (R124). -/
def execDecBuf (esz : BitVec 4) (w : Bool) (s : State) : Host.Outcome State Fault Refusal :=
  .next (needEsz esz s fun sz => wForm w (decBufStep sz) s)

/-- DEC.FIX (R125). -/
def execDecFix (esz : BitVec 4) (w : Bool) (s : State) : Host.Outcome State Fault Refusal :=
  .next (needEsz esz s fun sz => wForm w (decFixStep sz) s)

end Sys2Proof.Machine
end

