-- ==== Sys2Proof/Machine/Dispatch.lean ====
section
/-! DEFINITION. The meaning of each operation of the opcode table (30_encoding.md R74). -/

namespace Sys2Proof.Machine
open Sys2Proof

/-- One operation, as one atomic step (00_scope.md R9). -/
def exec (i : Instr) (s : State) : Host.Outcome State Fault Refusal :=
  match i with
  | .parse => Sys2Proof.Machine.execParse s
  | .isimg w => Sys2Proof.Machine.execIsimg w s
  | .getw w => Sys2Proof.Machine.execGetw w s
  | .geth w => Sys2Proof.Machine.execGeth w s
  | .cntImg w => Sys2Proof.Machine.execCntImg w s
  | .cntT e w => Sys2Proof.Machine.execCntT e w s
  | .expand e => Sys2Proof.Machine.execExpand e s
  | .decBuf e w => Sys2Proof.Machine.execDecBuf e w s
  | .decFix e w => Sys2Proof.Machine.execDecFix e w s

end Sys2Proof.Machine
end

