-- ==== Sys2Proof/Machine/HostPort.lean ====
section
/-! DEFINITION. The host's moves (00_scope.md R9, 10_state.md R31, R34, 70_reset_and_hazards.md R157, R158). -/

namespace Sys2Proof.Machine

/-- A write of `c` to `CMD` (10_state.md R31): the operation that `c` encodes, or the fault `IllegalCommand`, which
changes nothing but `STATUS.ERR` (30_encoding.md R78). -/
def issueCommand (c : Command) (s : State) : Host.Outcome State Fault Refusal :=
  match decode c with
  | .ok i => exec i s
  | .error _ => .next (s.raise .illegalCommand)

/-- A host write of bus value `v` to register `r`: register 31 issues a command (R31, R34). -/
def hostWrite (r : BitVec 5) (v : BitVec 64) (s : State) : Host.Outcome State Fault Refusal :=
  if r = 31 then issueCommand (v.setWidth 32) s else .next (s.writeReg r v)

/-- The reset event: every register and flag as after reset, SRC and DST left alone (70_reset_and_hazards.md R158).
The host's own records and its coming moves are no part of the unit (assumption log 16). -/
def State.resetUnit (s : State) : State :=
  { State.reset with
    src := s.src, dst := s.dst, srcReads := s.srcReads, readings := s.readings, moves := s.moves }

/-- A new word sequence in SRC, from index 0 on; every byte of the old one is gone (00_scope.md R9, 20_memory.md R40,
R46). `SRC_LEN` is the host's to set (60_exceptions.md R153). -/
def hostSupplySrc (ws : List SrcWord) (s : State) : Host.Outcome State Fault Refusal :=
  if 8 * ws.length ≤ Config.addressSpace then .next { s with src := Memory.loadWords [] 0 ws }
  else .fault .outsideAddressSpace

/-- The host reads a byte of DST. -/
def hostReadDst (a : Nat) (s : State) : Host.Outcome State Fault Refusal :=
  if a < Config.addressSpace then .next { s with readings := s.readings ++ [.dst a (Memory.read s.dst a)] }
  else .fault .outsideAddressSpace

/-- The host writes a byte of the DST storage it owns (assumption log 8). -/
def hostWriteDst (a : Nat) (b : Byte) (s : State) : Host.Outcome State Fault Refusal :=
  if a < Config.addressSpace then .next { s with dst := Memory.write s.dst a b }
  else .fault .outsideAddressSpace

/-- One move of the host. -/
def performMove (mv : HostMove) (s : State) : Host.Outcome State Fault Refusal :=
  match mv with
  | .writeReg r v => hostWrite r v s
  | .readReg r => .next { s with readings := s.readings ++ [.reg r (s.readReg r)] }
  | .readDst a => hostReadDst a s
  | .writeDst a b => hostWriteDst a b s
  | .supplySrc ws => hostSupplySrc ws s
  | .resetUnit => .next s.resetUnit
  | .breach b => .refused (.outsideContract b)

/-- The host move that issues command `c` (10_state.md R31). -/
def issueMove (c : Command) : HostMove := .writeReg 31 (c.setWidth 64)

/-- The next move of the host, if it has one, and the state without it. The unit fetches nothing
(10_state.md R27): which command comes next is the host's state. -/
def nextMove (s : State) : Option (HostMove × State) :=
  match s.moves with
  | [] => none
  | mv :: rest => some (mv, { s with moves := rest })

end Sys2Proof.Machine
end

