-- ==== Sys2Proof/Machine/Step.lean ====
section
/-! DEFINITION. One step: the next move of the host, or nothing when it has none (assumption log 2). -/

namespace Sys2Proof.Machine

/-- One step of the machine. With no host move waiting the unit is idle and nothing changes. -/
def step (s : State) : Host.Outcome State Fault Refusal :=
  match nextMove s with
  | none => .next s
  | some (mv, s') => performMove mv s'

/-- The state with a command word placed where the next step takes its command from: the host's next move is to
issue it (10_state.md R31). -/
def State.withFetchWord (s : State) (nbits w : Nat) : State :=
  { s with moves := issueMove (BitVec.ofNat 32 (w % 2 ^ nbits)) :: s.moves }

end Sys2Proof.Machine
end

