-- ==== Sys2Proof/Machine/Pseudo.lean ====
section
/-! DEFINITION. The pseudo-operations: what the host does for each function of the document (30_encoding.md R83 to
R88). Each is a list of host moves, except the dynamically sized decode, in which the host decides on what it reads. -/

namespace Sys2Proof.Machine

/-- `is_image(words)` is `ISIMG.W` (R83). -/
def movesIsImage : List HostMove := [issueMove (encode (.isimg true))]

/-- `get_width(words)` is `GETW.W` (R83). -/
def movesGetWidth : List HostMove := [issueMove (encode (.getw true))]

/-- `get_height(words)` is `GETH.W` (R83). -/
def movesGetHeight : List HostMove := [issueMove (encode (.geth true))]

/-- `element_count(words)` is `CNT.IMG.W` (R84). -/
def movesElementCount : List HostMove := [issueMove (encode (.cntImg true))]

/-- `element_count<T>(words)` is `CNT.T.W s` (R84). -/
def movesTypedElementCount (esz : BitVec 4) : List HostMove := [issueMove (encode (.cntT esz true))]

/-- `decode_into(words, buffer)`: `set DST_CAP, capacity`, then `DEC.BUF.W s` (R85). -/
def movesDecodeInto (capacity : BitVec 32) (esz : BitVec 4) : List HostMove :=
  [.writeReg 5 (capacity.setWidth 64), issueMove (encode (.decBuf esz true))]

/-- `decode_fixed(words)`: `set DST_CAP, capacity`, then `DEC.FIX.W s` (R86). -/
def movesDecodeFixed (capacity : BitVec 32) (esz : BitVec 4) : List HostMove :=
  [.writeReg 5 (capacity.setWidth 64), issueMove (encode (.decFix esz true))]

/-- `reconstruct(n, plane_pointer, (color0, color1))` (R88). -/
def movesReconstruct (n planePointer : BitVec 32) (color0 color1 : BitVec 64) (capacity : BitVec 32)
    (esz : BitVec 4) : List HostMove :=
  [.writeReg 2 (n.setWidth 64), .writeReg 1 (planePointer.setWidth 64), .writeReg 3 color0, .writeReg 4 color1,
   .writeReg 5 (capacity.setWidth 64), issueMove (encode (.expand esz))]

/-- The second half of `decode_dynamic`, after a `CNT.T.W s` that ended with `ERR = 0` (R87): `get COUNT`, the host's
own allocation (assumption log 17), `set DST_CAP, COUNT`, `DEC.BUF s`. -/
def decodeDynamicFill (esz : BitVec 4) (s : State) : Host.Outcome State Fault Refusal :=
  exec (.decBuf esz false)
    (State.writeReg { s with readings := s.readings ++ [.reg 16 (s.readReg 16)] } 5 (s.readReg 16))

/-- `decode_dynamic(words)` (R87): `CNT.T.W s`; if `ERR != 0` stop; else fill. -/
def decodeDynamic (esz : BitVec 4) (s : State) : Host.Outcome State Fault Refusal :=
  match exec (.cntT esz true) s with
  | .next t => if t.err = .ok then decodeDynamicFill esz t else .next t
  | .fault r => .fault r
  | .refused r => .refused r

end Sys2Proof.Machine
end

