-- ==== Sys2Proof/Safety.lean ====
section
/-! DEFINITION. The terms the claims use: the state invariant of the spec, a host that keeps the contract, what the W
form of an operation is, what a decode resolves to and leaves in DST, and which operation writes what. -/

namespace Sys2Proof.Machine

/-- The state invariant: 10_state.md R30 (b) to (e), the header group of a unit that has parsed nothing (R33), and
the canonical form of the two byte spaces. R30 (a) and (f) hold by the types `Kind` and `ErrCode`. -/
abbrev State.Inv (s : State) : Prop :=
  s.dimv = (s.hvalid && s.header.kind.isImage) ∧
  s.palv = (s.hvalid && decide (s.header.kind = .dualColor)) ∧
  (s.dimv = false → s.header.width = 0 ∧ s.header.height = 0) ∧
  (s.palv = false → s.header.color0 = 0 ∧ s.header.color1 = 0) ∧
  (s.rvalid = false → s.result = 0) ∧
  (s.hvalid = false → s.header = Header.zero) ∧
  Memory.wf s.src ∧ Memory.wf s.dst

/-- A move of a host that stays inside the contract and names only bytes that exist. -/
def HostMove.inContract : HostMove → Bool
  | .writeReg _ _ => true
  | .readReg _ => true
  | .readDst a => decide (a < Config.addressSpace)
  | .writeDst a _ => decide (a < Config.addressSpace)
  | .supplySrc ws => decide (8 * ws.length ≤ Config.addressSpace)
  | .resetUnit => true
  | .breach _ => false

/-- The header of a state resolves, for element size `sz`, to `n` elements: no check of `DecodeResolve`
(43_payload_decode.md R123) fails and the count is `n`. -/
def Resolves (h : Header) (sz n : Nat) : Prop :=
  h.bitCount.toNat < 2 ^ 31 ∧
  match h.kind with
  | .dualColor =>
    h.bpp.toNat = sz ∧ 1 ≤ sz ∧ sz ≤ 4 ∧ n = h.width.toNat * h.height.toNat ∧ h.bitCount.toNat = n
  | .generic => n = h.bitCount.toNat / 8 / sz
  | .image => n = h.bitCount.toNat / 8 / sz

/-- The header of a state makes `DecodeResolve` raise `e` for element size `sz`: the first check that fails, in the
order of 43_payload_decode.md R123. -/
def DecodeRaises (h : Header) (sz : Nat) : ErrCode → Prop
  | .typeMismatch => h.kind = .dualColor ∧ h.bpp.toNat ≠ sz
  | .bppRange => h.kind = .dualColor ∧ h.bpp.toNat = sz ∧ ¬(1 ≤ sz ∧ sz ≤ 4)
  | .bitCountRange => (h.kind = .dualColor → h.bpp.toNat = sz ∧ 1 ≤ sz ∧ sz ≤ 4) ∧ 2 ^ 31 ≤ h.bitCount.toNat
  | .planeMismatch =>
    h.kind = .dualColor ∧ h.bpp.toNat = sz ∧ 1 ≤ sz ∧ sz ≤ 4 ∧ h.bitCount.toNat < 2 ^ 31 ∧
      h.bitCount.toNat ≠ h.width.toNat * h.height.toNat
  | _ => False

/-- The index of the first payload byte (43_payload_decode.md R120). -/
def payloadStart (h : Header) : Nat :=
  match h.kind with
  | .generic => 8
  | .image => 16
  | .dualColor => 24

/-- The number of SRC bytes a decode of `n` elements reads (R123): the plane, or the copied bytes. -/
def payloadSpan (h : Header) (sz n : Nat) : Nat :=
  match h.kind with
  | .dualColor => (n + 7) / 8
  | .generic => n * sz
  | .image => n * sz

/-- Byte `x` of the output of a decode with element size `sz` under header `h`: the payload byte for the two copied
kinds (43_payload_decode.md R127), the stored byte of the selected colour for DualColorImage (R128). -/
def decodedByte (h : Header) (src : Memory) (sz x : Nat) : Byte :=
  match h.kind with
  | .generic => Memory.read src (8 + x)
  | .image => Memory.read src (16 + x)
  | .dualColor =>
    if (Memory.read src (24 + x / sz / 8)).getLsbD (7 - x / sz % 8)
    then h.color1.extractLsb' (8 * (x % sz)) 8
    else h.color0.extractLsb' (8 * (x % sz)) 8

/-- `X.W` is PARSE and then, exactly when that PARSE ended with `ERR = 0`, `X` (40_header_unpack.md R96). -/
def IsWForm (x : Bool → Instr) : Prop :=
  ∀ s p, exec .parse s = .next p →
    exec (x true) s = if p.err = .ok then exec (x false) p else .next p

/-- The operations that write `RESULT` and `RVALID` (10_state.md R35). -/
def writesResult : Instr → Bool
  | .isimg _ | .getw _ | .geth _ => true
  | .parse | .cntImg _ | .cntT _ _ | .expand _ | .decBuf _ _ | .decFix _ _ => false

/-- The operations that write `COUNT` (R35). -/
def writesCount : Instr → Bool
  | .cntImg _ | .cntT _ _ | .decBuf _ _ | .decFix _ _ => true
  | .parse | .isimg _ | .getw _ | .geth _ | .expand _ => false

/-- The operations that write DST (R35). -/
def writesDst : Instr → Bool
  | .expand _ | .decBuf _ _ | .decFix _ _ => true
  | .parse | .isimg _ | .getw _ | .geth _ | .cntImg _ | .cntT _ _ => false

/-- The operations that write the header group and its flags: PARSE and every W form (R22, R35). -/
def writesHeader (i : Instr) : Bool := decide (i = .parse) || i.wBit

/-- A word sequence long enough for its header's payload (20_memory.md R45). -/
def SequenceWellFormed (s : State) : Prop :=
  s.header.kind.headerWords + ceil8 (ceil8 s.header.bitCount.toNat) ≤ s.srcLen.toNat

end Sys2Proof.Machine
end

