-- ==== Sys2Proof/Certificates/Slice0/Obligations.lean ====
section
/-! DEFINITION. The statements for the provers. Each docstring names the rule of spec/ it formalises. -/

open Sys2Proof Sys2Proof.Machine

/-! Commands -/

/-- The decoder reads back every well-formed operation from its command word (30_encoding.md R73, R74, R78). -/
def Obligations.DecodeOfEncodeIsTheOperation : Prop :=
  ∀ i : Instr, i.wellFormed = true → decode (encode i) = .ok i

/-- A command word that decodes is the encoding of what it decodes to, which is well formed: no bit of a legal
command is dropped and every other word is rejected (R73, R77, R78). -/
def Obligations.EncodeOfDecodeIsTheCommand : Prop :=
  ∀ (c : Command) (i : Instr), decode c = .ok i → encode i = c ∧ i.wellFormed = true

/-- R78: a command is legal exactly when it selects a row of the opcode map of R74 and a sized row has an element
size of 1 to 8. No command selects two rows, the operation is the row's, and every other word, the zero word among
them, raises `IllegalCommand` and changes nothing else. -/
def Obligations.LegalCommandsAreTheOpcodeMap : Prop :=
  ∀ c : Command,
    ((∃ i, decode c = .ok i) ↔ ∃ r ∈ opcodeMap, r.accepts c) ∧
    (∀ r ∈ opcodeMap, ∀ r' ∈ opcodeMap, r.selectedBy c → r'.selectedBy c → r = r') ∧
    (∀ i, decode c = .ok i → ∃ r ∈ opcodeMap, r.accepts c ∧ r.mnemonic = i.mnemonic) ∧
    (∀ s, (¬∃ i, decode c = .ok i) → issueCommand c s = .next { s with err := .illegalCommand }) ∧
    ¬∃ i, decode 0 = .ok i

/-- R82: the command value is `OP + 16*s + 256*W`, below 512. -/
def Obligations.CommandValueIsFieldSum : Prop :=
  ∀ i : Instr,
    (encode i).toNat = i.op.toNat + 16 * i.eszField.toNat + 256 * i.wBit.toNat ∧ (encode i).toNat < 512

/-- Of the 2^32 command words exactly 65 are legal (95_test_vectors.md B5). -/
def Obligations.SixtyFiveCommandsAreLegal : Prop :=
  ∃ l : List Command, l.Nodup ∧ l.length = 65 ∧ ∀ c, c ∈ l ↔ ∃ i, decode c = .ok i

/-- Command words that the spec writes out decode to what it says they are, and their assembler text is the spec's
(30_encoding.md R81; 95_test_vectors.md V60, V65). -/
def Obligations.SpelledCommandsDecode : Prop :=
  decode 0x00000001 = .ok .parse ∧ decode 0x00000102 = .ok (.isimg true) ∧
  decode 0x00000003 = .ok (.getw false) ∧ decode 0x00000004 = .ok (.geth false) ∧
  decode 0x00000105 = .ok (.cntImg true) ∧
  decode 0x00000046 = .ok (.cntT 4 false) ∧ decode 0x00000126 = .ok (.cntT 2 true) ∧
  decode 0x00000017 = .ok (.expand 1) ∧ decode 0x00000128 = .ok (.decBuf 2 true) ∧
  decode 0x00000039 = .ok (.decFix 3 false) ∧ decode 0x00000089 = .ok (.decFix 8 false) ∧
  decode 0x00000011 = .error .elementSizeNotZero ∧
  (Instr.cntT 2 true).text = "CNT.T.W 2" ∧ (Instr.isimg true).text = "ISIMG.W"

/-! One step -/

/-- A write of any 64-bit bus value to `CMD` issues the operation that its low 32 bits encode; low bits that are no
legal command set `STATUS.ERR` and change nothing else; nothing is stored, a read returns 0. The step takes the host's
move off the list and runs `exec` of the decoded operation at the state without it. That the low 32 bits of a wider
value count is the model's choice (assumption log 11, DESIGN CHOICE); the list of moves is the model's too (log 2).
`CommandWriteIssuesTheOperation` says what R31 says, of a 32-bit value. -/
def Obligations.CommandPortRunsTheDecodedOperation : Prop :=
  ∀ (s : State) (v : BitVec 64) (rest : List HostMove), s.moves = .writeReg 31 v :: rest →
    (∀ i, decode (v.setWidth 32) = .ok i → step s = exec i { s with moves := rest }) ∧
    ((¬∃ i, decode (v.setWidth 32) = .ok i) →
      step s = .next { s with moves := rest, err := .illegalCommand }) ∧
    s.readReg 31 = 0

/-- A command placed by `withFetchWord` is what the next step runs, and the step leaves the host's other moves as
they were. -/
def Obligations.PlacedCommandIsTheNextToRun : Prop :=
  ∀ (s : State) (w : Nat) (i : Instr), w < 2 ^ 32 → decode (BitVec.ofNat 32 w) = .ok i →
    step (s.withFetchWord 32 w) = exec i s

/-- A unit with no host move waiting stays as it is. The model's choice, DEDUCED from 10_state.md R27 (assumption
log 2). -/
def Obligations.IdleUnitKeepsItsState : Prop :=
  ∀ s : State, s.moves = [] → step s = .next s

/-- Every move of a host that keeps the contract has a next state and uses up one move; so does every command,
whatever its 32 bits (70_reset_and_hazards.md R166). Every other move stops the model (assumption log 9, 10). -/
def Obligations.MovesInContractComplete : Prop :=
  ∀ (s : State) (mv : HostMove) (rest : List HostMove), s.moves = mv :: rest →
    (mv.inContract = true → ∃ t, step s = .next t ∧ t.moves = rest) ∧
    (mv.inContract = false → ∀ t, step s ≠ .next t)

/-- Moves outside the contract stop by name: a byte outside the 35-bit index range is the model's fault, a breach is
refused. The model's choice (assumption log 9, 10; 93_implementation_defined.md U1, U2, U3, U22). -/
def Obligations.MovesOutsideTheContractStopByName : Prop :=
  ∀ (s : State) (rest : List HostMove),
    (∀ a, 2 ^ 35 ≤ a → s.moves = .readDst a :: rest → step s = .fault .outsideAddressSpace) ∧
    (∀ a b, 2 ^ 35 ≤ a → s.moves = .writeDst a b :: rest → step s = .fault .outsideAddressSpace) ∧
    (∀ ws, 2 ^ 35 < 8 * ws.length → s.moves = .supplySrc ws :: rest → step s = .fault .outsideAddressSpace) ∧
    (∀ b, s.moves = .breach b :: rest → step s = .refused (.outsideContract b))

/-! The register file as the host sees it -/

/-- Registers read at the numbers of 10_state.md R16, zero-extended; reserved registers and `CMD` read 0. -/
def Obligations.RegistersReadAtTheirNumbers : Prop :=
  ∀ s : State,
    s.readReg 0 = s.srcLen.setWidth 64 ∧ s.readReg 1 = s.srcOff.setWidth 64 ∧
    s.readReg 2 = s.regN.setWidth 64 ∧ s.readReg 3 = s.pal0 ∧ s.readReg 4 = s.pal1 ∧
    s.readReg 5 = s.dstCap.setWidth 64 ∧
    s.readReg 8 = (match s.header.kind with | .generic => 0 | .image => 1 | .dualColor => 2) ∧
    s.readReg 9 = s.header.bpp.setWidth 64 ∧ s.readReg 10 = s.header.bitCount.setWidth 64 ∧
    s.readReg 11 = s.header.width.setWidth 64 ∧ s.readReg 12 = s.header.height.setWidth 64 ∧
    s.readReg 13 = s.header.color0.setWidth 64 ∧ s.readReg 14 = s.header.color1.setWidth 64 ∧
    s.readReg 16 = s.count.setWidth 64 ∧ s.readReg 17 = s.result.setWidth 64 ∧
    s.readReg 18 = s.status.setWidth 64 ∧
    (∀ r : BitVec 5, r.toNat ∈ [6, 7, 15, 31] ∨ (19 ≤ r.toNat ∧ r.toNat ≤ 30) → s.readReg r = 0)

/-- R34: a host write of an operand register stores the value truncated to the register's width and changes nothing
else; a write of a read-only or reserved register changes nothing; a host access is no operation and does not change
`STATUS`; reads of `CMD` and reserved registers return 0. -/
def Obligations.HostRegisterAccesses : Prop :=
  ∀ (s : State) (r : BitVec 5) (v : BitVec 64) (rest : List HostMove),
    (s.moves = .writeReg r v :: rest → r ≠ 31 → ∃ t, step s = .next t ∧ t.moves = rest ∧
      (∀ r' : BitVec 5, t.readReg r' =
        if r' = r ∧ r.toNat ∈ [0, 1, 2, 5] then (v.setWidth 32).setWidth 64
        else if r' = r ∧ r.toNat ∈ [3, 4] then v
        else s.readReg r') ∧
      t.src = s.src ∧ t.dst = s.dst ∧ t.srcReads = s.srcReads ∧ t.readings = s.readings ∧
      t.header = s.header ∧ t.err = s.err ∧ t.hvalid = s.hvalid ∧ t.dimv = s.dimv ∧ t.palv = s.palv ∧
      t.rvalid = s.rvalid) ∧
    (s.moves = .readReg r :: rest →
      step s = .next { s with moves := rest, readings := s.readings ++ [.reg r (s.readReg r)] }) ∧
    (r.toNat ∈ [6, 7, 15, 31] ∨ (19 ≤ r.toNat ∧ r.toNat ≤ 30) → s.readReg r = 0)

/-- The layout of `STATUS` (10_state.md R28) and the numbers of the fault codes (60_exceptions.md R133). -/
def Obligations.StatusWordLayout : Prop :=
  ∀ s : State,
    s.status.extractLsb' 0 5 = s.err.code ∧
    s.status.getLsbD 8 = s.hvalid ∧ s.status.getLsbD 9 = s.dimv ∧ s.status.getLsbD 10 = s.palv ∧
    s.status.getLsbD 11 = s.rvalid ∧
    (∀ k, (5 ≤ k ∧ k ≤ 7) ∨ 12 ≤ k → s.status.getLsbD k = false) ∧
    [ErrCode.ok, .illegalCommand, .headerNotLoaded, .sourceRange, .reservedKind, .unsupportedKind, .typeMismatch,
      .bppRange, .bitCountRange, .planeMismatch, .countNotPositive, .capacityMismatch, .bufferTooSmall].map
        ErrCode.code = (List.range 13).map (BitVec.ofNat 5)

/-- A read of a DST byte returns that byte to the host and changes nothing else (00_scope.md R9). -/
def Obligations.HostReadsOfDestination : Prop :=
  ∀ (s : State) (a : Nat) (rest : List HostMove), a < 2 ^ 35 → s.moves = .readDst a :: rest →
    step s = .next { s with moves := rest, readings := s.readings ++ [.dst a (Memory.read s.dst a)] }

/-- The host's own write of a byte of DST storage changes that byte and nothing else. The model's choice
(assumption log 8). -/
def Obligations.HostWritesOfDestination : Prop :=
  ∀ (s : State) (a : Nat) (b : Byte) (rest : List HostMove), a < 2 ^ 35 → s.moves = .writeDst a b :: rest →
    ∃ d, step s = .next { s with moves := rest, dst := d } ∧
      ∀ x, Memory.read d x = if x = a then b else Memory.read s.dst x

/-- A supplied word sequence is all that SRC then holds, byte `j` of word `k` at index `8k + j` and in bits `8j+7:8j`
of the word (20_memory.md R40, R46); no register changes (the host sets `SRC_LEN` itself, 60_exceptions.md R153).
The last clause is the model's choice and no rule of the spec: that a supplied sequence replaces all of SRC rests on
assumption log 8, and that a byte beyond it reads as `Config.unlistedByte` on assumption log 1 (DESIGN CHOICE). -/
def Obligations.SuppliedSourceReadsBack : Prop :=
  ∀ (s : State) (ws : List SrcWord) (rest : List HostMove),
    8 * ws.length ≤ 2 ^ 35 → s.moves = .supplySrc ws :: rest →
    ∃ m, step s = .next { s with moves := rest, src := m } ∧
      (∀ k (w : SrcWord), ws[k]? = some w → ∀ j, j < 8 →
        Memory.read m (8 * k + j) = w.extractLsb' (8 * j) 8) ∧
      (∀ x, 8 * ws.length ≤ x → Memory.read m x = Config.unlistedByte)

/-! Reset -/

/-- R158: after reset every register reads 0, `STATUS.ERR` is 0 and the four flags are 0, at power-on and after a reset
event; a reset event does not touch SRC and DST. -/
def Obligations.ResetClearsEveryRegister : Prop :=
  (∀ r : BitVec 5, State.reset.readReg r = 0) ∧
  State.reset.err = .ok ∧ State.reset.hvalid = false ∧ State.reset.dimv = false ∧ State.reset.palv = false ∧
  State.reset.rvalid = false ∧
  ∀ (s : State) (rest : List HostMove), s.moves = .resetUnit :: rest →
    ∃ t, step s = .next t ∧ (∀ r : BitVec 5, t.readReg r = 0) ∧ t.err = .ok ∧
      t.hvalid = false ∧ t.dimv = false ∧ t.palv = false ∧ t.rvalid = false ∧
      t.src = s.src ∧ t.dst = s.dst ∧ t.moves = rest

/-- The invariant holds after reset. -/
def Obligations.ResetMeetsTheInvariant : Prop := State.reset.Inv

/-- Every step, of the host or of the unit, keeps the invariant: the flags mirror the kind, absent header fields and an
inapplicable `RESULT` read 0, and both byte spaces stay canonical (10_state.md R30 (b) to (e)). -/
def Obligations.StepKeepsTheInvariant : Prop :=
  ∀ s t : State, s.Inv → step s = .next t → t.Inv

/-- 10_state.md R30 (g): once `HVALID = 1` it stays 1 until reset. -/
def Obligations.HeaderStaysValidUntilReset : Prop :=
  (∀ (i : Instr) (s t : State), exec i s = .next t → s.hvalid = true → t.hvalid = true) ∧
  ∀ s t : State, step s = .next t → s.hvalid = true → s.moves.head? ≠ some .resetUnit → t.hvalid = true

/-! PARSE -/

/-- R89, R90, R91: what PARSE loads for each kind, byte by byte, which header words it reads and in which order, and
the four faults, each of which changes nothing but `STATUS.ERR` (the read history is the model's own record). -/
def Obligations.ParseUnpacksTheHeader : Prop :=
  decode 0x00000001 = .ok .parse ∧
  ∀ s : State, ∀ b : Nat → Byte, (∀ a, b a = Memory.read s.src a) →
    (s.srcLen = 0 → exec .parse s = .next { s with err := .sourceRange }) ∧
    (1 ≤ s.srcLen.toNat → 3 ≤ (b 0).toNat →
      exec .parse s = .next { s with err := .reservedKind, srcReads := s.srcReads ++ [⟨0, 8⟩] }) ∧
    (s.srcLen = 1 → b 0 = 1 ∨ b 0 = 2 →
      exec .parse s = .next { s with err := .sourceRange, srcReads := s.srcReads ++ [⟨0, 8⟩] }) ∧
    (s.srcLen = 2 → b 0 = 2 →
      exec .parse s = .next { s with err := .sourceRange, srcReads := s.srcReads ++ [⟨0, 8⟩, ⟨8, 8⟩] }) ∧
    (1 ≤ s.srcLen.toNat → b 0 = 0 →
      exec .parse s = .next { s with
        header :=
          { kind := .generic, bpp := b 1, bitCount := b 7 ++ b 6 ++ b 5 ++ b 4
            width := 0, height := 0, color0 := 0, color1 := 0 }
        hvalid := true, dimv := false, palv := false, err := .ok
        srcReads := s.srcReads ++ [⟨0, 8⟩] }) ∧
    (2 ≤ s.srcLen.toNat → b 0 = 1 →
      exec .parse s = .next { s with
        header :=
          { kind := .image, bpp := b 1, bitCount := b 7 ++ b 6 ++ b 5 ++ b 4
            width := b 9 ++ b 8, height := b 11 ++ b 10, color0 := 0, color1 := 0 }
        hvalid := true, dimv := true, palv := false, err := .ok
        srcReads := s.srcReads ++ [⟨0, 8⟩, ⟨8, 8⟩] }) ∧
    (3 ≤ s.srcLen.toNat → b 0 = 2 →
      exec .parse s = .next { s with
        header :=
          { kind := .dualColor, bpp := b 1, bitCount := b 7 ++ b 6 ++ b 5 ++ b 4
            width := b 9 ++ b 8, height := b 11 ++ b 10
            color0 := b 19 ++ b 18 ++ b 17 ++ b 16, color1 := b 23 ++ b 22 ++ b 21 ++ b 20 }
        hvalid := true, dimv := true, palv := true, err := .ok
        srcReads := s.srcReads ++ [⟨0, 8⟩, ⟨8, 8⟩, ⟨16, 8⟩] })

/-- R71: the padding bytes of header words 0 and 1 do not matter to the unpacker, whatever their value. -/
def Obligations.ParseIgnoresPadding : Prop :=
  ∀ (s t : State) (a : Nat) (v : Byte), a ∈ [2, 3, 12, 13, 14, 15] → exec .parse s = .next t →
    exec .parse { s with src := Memory.write s.src a v } = .next { t with src := Memory.write s.src a v }

/-- R97: two word sequences unpack to the same Header exactly when they agree on the meaningful header bytes. -/
def Obligations.UnpackingIsInjective : Prop :=
  ∀ s s' t t' : State, exec .parse s = .next t → exec .parse s' = .next t' → t.err = .ok → t'.err = .ok →
    (t.header = t'.header ↔
      (∀ a ∈ [0, 1, 4, 5, 6, 7], Memory.read s.src a = Memory.read s'.src a) ∧
      (t.header.kind ≠ .generic → ∀ a ∈ [8, 9, 10, 11], Memory.read s.src a = Memory.read s'.src a) ∧
      (t.header.kind = .dualColor →
        ∀ a, 16 ≤ a → a < 24 → Memory.read s.src a = Memory.read s'.src a))

/-- R96: a W form has exactly the effect of PARSE followed, if and only if that PARSE ended with `ERR = 0`, by the plain
operation, and never faults `HeaderNotLoaded`. An illegal element size is decided before the PARSE half. -/
def Obligations.WFormIsParseThenOperation : Prop :=
  ∀ (i : Instr) (s p : State), i.wellFormed = true → i.wBit = true → exec .parse s = .next p →
    exec i s = (if p.err = .ok then exec i.plain p else .next p) ∧
    ∀ t, exec i s = .next t → t.err ≠ .headerNotLoaded

/-! ISIMG, GETW, GETH -/

/-- R93: ISIMG, with and without `W`, and its two command words. -/
def Obligations.IsimgAnswersTheKind : Prop :=
  (∀ s : State, s.hvalid = true →
    exec (.isimg false) s =
      .next { s with result := if s.header.kind = .generic then 0 else 1, rvalid := true, err := .ok }) ∧
  (∀ s : State, s.hvalid = false → exec (.isimg false) s = .next { s with err := .headerNotLoaded }) ∧
  IsWForm .isimg ∧ decode 0x00000002 = .ok (.isimg false) ∧ decode 0x00000102 = .ok (.isimg true)

/-- R94: GETW. A Generic header is no fault: `RESULT` reads 0 and is marked not applicable. -/
def Obligations.GetwAnswersTheWidth : Prop :=
  (∀ s : State, s.hvalid = true → s.header.kind ≠ .generic →
    exec (.getw false) s =
      .next { s with result := BitVec.ofNat 32 s.header.width.toNat, rvalid := true, err := .ok }) ∧
  (∀ s : State, s.hvalid = true → s.header.kind = .generic →
    exec (.getw false) s = .next { s with result := 0, rvalid := false, err := .ok }) ∧
  (∀ s : State, s.hvalid = false → exec (.getw false) s = .next { s with err := .headerNotLoaded }) ∧
  IsWForm .getw ∧ decode 0x00000003 = .ok (.getw false) ∧ decode 0x00000103 = .ok (.getw true)

/-- R95: GETH, GETW with `H_HEIGHT` in place of `H_WIDTH`. -/
def Obligations.GethAnswersTheHeight : Prop :=
  (∀ s : State, s.hvalid = true → s.header.kind ≠ .generic →
    exec (.geth false) s =
      .next { s with result := BitVec.ofNat 32 s.header.height.toNat, rvalid := true, err := .ok }) ∧
  (∀ s : State, s.hvalid = true → s.header.kind = .generic →
    exec (.geth false) s = .next { s with result := 0, rvalid := false, err := .ok }) ∧
  (∀ s : State, s.hvalid = false → exec (.geth false) s = .next { s with err := .headerNotLoaded }) ∧
  IsWForm .geth ∧ decode 0x00000004 = .ok (.geth false) ∧ decode 0x00000104 = .ok (.geth true)

/-! CNT.IMG, CNT.T -/

/-- R101, R103: CNT.IMG resolves the exact product, which fits `COUNT`. -/
def Obligations.CntImgResolvesTheProduct : Prop :=
  (∀ s : State, s.hvalid = true → s.header.kind ≠ .generic →
    ∃ n : BitVec 32, n.toNat = s.header.width.toNat * s.header.height.toNat ∧
      exec (.cntImg false) s = .next { s with count := n, err := .ok }) ∧
  (∀ s : State, s.hvalid = true → s.header.kind = .generic →
    exec (.cntImg false) s = .next { s with err := .unsupportedKind }) ∧
  (∀ s : State, s.hvalid = false → exec (.cntImg false) s = .next { s with err := .headerNotLoaded }) ∧
  IsWForm .cntImg ∧ decode 0x00000005 = .ok (.cntImg false) ∧ decode 0x00000105 = .ok (.cntImg true)

/-- R102, R100, R104: CNT.T resolves the typed count: the exact product for DualColorImage, whatever `bit_count` is,
and `(bit_count div 8) div s` for the other kinds, where `bit_count` with bit 31 set is refused. -/
def Obligations.CntTResolvesTheTypedCount : Prop :=
  ∀ e : BitVec 4, legalEsz e →
    (∀ s : State, s.hvalid = true → s.header.kind = .dualColor →
      ∃ n : BitVec 32, n.toNat = s.header.width.toNat * s.header.height.toNat ∧
        exec (.cntT e false) s = .next { s with count := n, err := .ok }) ∧
    (∀ s : State, s.hvalid = true → s.header.kind ≠ .dualColor → s.header.bitCount.toNat < 2 ^ 31 →
      ∃ n : BitVec 32, n.toNat = s.header.bitCount.toNat / 8 / e.toNat ∧
        exec (.cntT e false) s = .next { s with count := n, err := .ok }) ∧
    (∀ s : State, s.hvalid = true → s.header.kind ≠ .dualColor → 2 ^ 31 ≤ s.header.bitCount.toNat →
      exec (.cntT e false) s = .next { s with err := .bitCountRange }) ∧
    (∀ s : State, s.hvalid = false → exec (.cntT e false) s = .next { s with err := .headerNotLoaded }) ∧
    IsWForm (.cntT e) ∧
    decode (0x00000006 + 16 * e.setWidth 32) = .ok (.cntT e false) ∧
    decode (0x00000106 + 16 * e.setWidth 32) = .ok (.cntT e true)

/-- R106: for an Image header packed for pixels of `bpp` bytes the two counts agree at `ESZ = bpp`, and at `ESZ = 1` the
typed count is the byte count. -/
def Obligations.CountsAgreeOnPackedImages : Prop :=
  ∀ (e : BitVec 4) (s t u v : State), legalEsz e → s.hvalid = true → s.header.kind = .image →
    s.header.bpp.toNat = e.toNat → s.header.bitCount.toNat < 2 ^ 31 →
    s.header.bitCount.toNat = 8 * s.header.width.toNat * s.header.height.toNat * s.header.bpp.toNat →
    exec (.cntT e false) s = .next t → exec (.cntImg false) s = .next u → exec (.cntT 1 false) s = .next v →
    t.count = u.count ∧ v.count.toNat = u.count.toNat * s.header.bpp.toNat

/-! EXPAND -/

/-- R112 with R109 to R111: EXPAND writes, for every element, the low `s` bytes of the palette entry its selector bit
chooses, most-significant bit of each plane byte first, to DST bytes `0` to `n*s - 1` and no other; it reads exactly
the plane; it writes no register; and its two faults write nothing. -/
def Obligations.ExpandReconstructsThePlane : Prop :=
  ∀ (e : BitVec 4) (s : State) (n a sz : Nat), legalEsz e → n = s.regN.toNat → a = s.srcOff.toNat → sz = e.toNat →
    (s.dstCap.toNat < n → exec (.expand e) s = .next { s with err := .bufferTooSmall }) ∧
    (n ≤ s.dstCap.toNat → 0 < n → 8 * s.srcLen.toNat < a + (n + 7) / 8 →
      exec (.expand e) s = .next { s with err := .sourceRange }) ∧
    (n ≤ s.dstCap.toNat → n = 0 ∨ a + (n + 7) / 8 ≤ 8 * s.srcLen.toNat →
      ∃ d, exec (.expand e) s =
          .next { s with
            dst := d, err := .ok
            srcReads := s.srcReads ++ (if n = 0 then [] else [⟨a, (n + 7) / 8⟩]) } ∧
        ∀ x, Memory.read d x =
          if x < n * sz then
            (if (Memory.read s.src (a + x / sz / 8)).getLsbD (7 - x / sz % 8) then s.pal1 else s.pal0).extractLsb'
              (8 * (x % sz)) 8
          else Memory.read s.dst x) ∧
    decode (0x00000007 + 16 * e.setWidth 32) = .ok (.expand e)

/-- R114: of the last plane byte only the `n mod 8` most-significant bits matter, and no byte beyond the plane does. -/
def Obligations.ExpandIgnoresUnusedBits : Prop :=
  ∀ (e : BitVec 4) (s t : State) (m : Memory) (n a : Nat), n = s.regN.toNat → a = s.srcOff.toNat →
    (∀ k, k < n / 8 → Memory.read m (a + k) = Memory.read s.src (a + k)) →
    (∀ j, 8 - n % 8 ≤ j → j < 8 →
      (Memory.read m (a + n / 8)).getLsbD j = (Memory.read s.src (a + n / 8)).getLsbD j) →
    exec (.expand e) s = .next t → exec (.expand e) { s with src := m } = .next { t with src := m }

/-! DEC.BUF, DEC.FIX -/

/-- R124 with R119 to R123: DEC.BUF. Every check in order, then the output bytes, `COUNT`, the bytes read, and nothing
else. -/
def Obligations.DecBufDecodesThePayload : Prop :=
  ∀ e : BitVec 4, legalEsz e →
    (∀ s : State, s.hvalid = false → exec (.decBuf e false) s = .next { s with err := .headerNotLoaded }) ∧
    (∀ (s : State) (c : ErrCode), s.hvalid = true → DecodeRaises s.header e.toNat c →
      exec (.decBuf e false) s = .next { s with err := c }) ∧
    (∀ (s : State) (n a span : Nat), s.hvalid = true → Resolves s.header e.toNat n →
      a = payloadStart s.header → span = payloadSpan s.header e.toNat n →
      (s.dstCap.toNat < n → exec (.decBuf e false) s = .next { s with err := .bufferTooSmall }) ∧
      (n ≤ s.dstCap.toNat → 0 < span → 8 * s.srcLen.toNat < a + span →
        exec (.decBuf e false) s = .next { s with err := .sourceRange }) ∧
      (n ≤ s.dstCap.toNat → span = 0 ∨ a + span ≤ 8 * s.srcLen.toNat →
        ∃ (d : Memory) (c : BitVec 32), c.toNat = n ∧
          exec (.decBuf e false) s =
            .next { s with
              dst := d, count := c, err := .ok
              srcReads := s.srcReads ++ (if span = 0 then [] else [⟨a, span⟩]) } ∧
          ∀ x, Memory.read d x =
            if x < n * e.toNat then decodedByte s.header s.src e.toNat x else Memory.read s.dst x)) ∧
    IsWForm (.decBuf e) ∧
    decode (0x00000008 + 16 * e.setWidth 32) = .ok (.decBuf e false) ∧
    decode (0x00000108 + 16 * e.setWidth 32) = .ok (.decBuf e true)

/-- R125 with R119 to R123: DEC.FIX. As DEC.BUF, but the count must be positive and equal to the fixed capacity. -/
def Obligations.DecFixFillsTheContainer : Prop :=
  ∀ e : BitVec 4, legalEsz e →
    (∀ s : State, s.hvalid = false → exec (.decFix e false) s = .next { s with err := .headerNotLoaded }) ∧
    (∀ (s : State) (c : ErrCode), s.hvalid = true → DecodeRaises s.header e.toNat c →
      exec (.decFix e false) s = .next { s with err := c }) ∧
    (∀ (s : State) (n a span : Nat), s.hvalid = true → Resolves s.header e.toNat n →
      a = payloadStart s.header → span = payloadSpan s.header e.toNat n →
      (n = 0 → exec (.decFix e false) s = .next { s with err := .countNotPositive }) ∧
      (n ≠ 0 → n ≠ s.dstCap.toNat → exec (.decFix e false) s = .next { s with err := .capacityMismatch }) ∧
      (n ≠ 0 → n = s.dstCap.toNat → 8 * s.srcLen.toNat < a + span →
        exec (.decFix e false) s = .next { s with err := .sourceRange }) ∧
      (n ≠ 0 → n = s.dstCap.toNat → a + span ≤ 8 * s.srcLen.toNat →
        ∃ d : Memory,
          exec (.decFix e false) s =
            .next { s with
              dst := d, count := s.dstCap, err := .ok, srcReads := s.srcReads ++ [⟨a, span⟩] } ∧
          ∀ x, Memory.read d x =
            if x < n * e.toNat then decodedByte s.header s.src e.toNat x else Memory.read s.dst x)) ∧
    IsWForm (.decFix e) ∧
    decode (0x00000009 + 16 * e.setWidth 32) = .ok (.decFix e false) ∧
    decode (0x00000109 + 16 * e.setWidth 32) = .ok (.decFix e true)

/-- The checks of `DecodeResolve` leave nothing out and decide nothing twice: a decode of a loaded header ends in a
header fault exactly when the header raises it, and else the header resolves to one count (R123, R137). -/
def Obligations.DecodeFaultsAreTheHeaderChecks : Prop :=
  ∀ (e : BitVec 4) (s t : State) (x : BitVec 4 → Bool → Instr), x = .decBuf ∨ x = .decFix → legalEsz e →
    s.hvalid = true → exec (x e false) s = .next t →
    (∀ c ∈ [ErrCode.typeMismatch, .bppRange, .bitCountRange, .planeMismatch],
      t.err = c ↔ DecodeRaises s.header e.toNat c) ∧
    (t.err ∉ [ErrCode.typeMismatch, .bppRange, .bitCountRange, .planeMismatch] ↔
      ∃ n, Resolves s.header e.toNat n)

/-- R130: a DualColorImage of one byte per pixel decoded into 4-byte elements raises `TypeMismatch` and writes no DST
byte. -/
def Obligations.MismatchedDecodeIsRejected : Prop :=
  ∀ s : State, s.hvalid = true → s.header.kind = .dualColor → s.header.bpp = 1 →
    exec (.decBuf 4 false) s = .next { s with err := .typeMismatch } ∧
    exec (.decFix 4 false) s = .next { s with err := .typeMismatch }

/-- R127: after a successful decode of a Generic or Image payload, DST holds the payload bytes as they stand, never more
than the whole populated bytes, and all of those at element size 1. -/
def Obligations.VerbatimCopyLaw : Prop :=
  ∀ (e : BitVec 4) (w : Bool) (i : Instr) (s t : State), i = .decBuf e w ∨ i = .decFix e w →
    exec i s = .next t → t.err = .ok → t.header.kind ≠ .dualColor →
    (∀ k, k < t.count.toNat * e.toNat →
      Memory.read t.dst k = Memory.read t.src ((if t.header.kind = .generic then 8 else 16) + k)) ∧
    t.count.toNat * e.toNat ≤ t.header.bitCount.toNat / 8 ∧
    (e = 1 → t.count.toNat = t.header.bitCount.toNat / 8)

/-- R128: after a successful decode of a DualColorImage, element `i` is the first `s = bpp` stored bytes of the colour
that bit `7 - (i mod 8)` of plane byte `i div 8` selects. -/
def Obligations.TwoColourLaw : Prop :=
  ∀ (e : BitVec 4) (w : Bool) (i : Instr) (s t : State), i = .decBuf e w ∨ i = .decFix e w →
    exec i s = .next t → t.err = .ok → t.header.kind = .dualColor →
    t.header.bpp.toNat = e.toNat ∧
    ∀ j k, j < t.count.toNat → k < e.toNat →
      Memory.read t.dst (j * e.toNat + k) =
        if (Memory.read t.src (24 + j / 8)).getLsbD (7 - j % 8) then t.header.color1.extractLsb' (8 * k) 8
        else t.header.color0.extractLsb' (8 * k) 8

/-- A decode of a word sequence that is long enough for its payload never faults `SourceRange` (20_memory.md R44,
R45). A plain decode takes the loaded header; a W form takes the header that its PARSE half loads, so its sequence is
well formed in the state after a PARSE that ended with `ERR = 0`. -/
def Obligations.WellFormedSequencesStayInRange : Prop :=
  (∀ (e : BitVec 4) (i : Instr) (s t : State), i = .decBuf e false ∨ i = .decFix e false →
    SequenceWellFormed s → exec i s = .next t → t.err ≠ .sourceRange) ∧
  ∀ (e : BitVec 4) (i : Instr) (s p t : State), i = .decBuf e true ∨ i = .decFix e true →
    exec .parse s = .next p → p.err = .ok → SequenceWellFormed p → exec i s = .next t → t.err ≠ .sourceRange

/-- 30_encoding.md R87: the dynamically sized decode stops with the fault of its `CNT.T.W`, if that has one; else it
its `DEC.BUF` runs with `DST_CAP` at the resolved count and cannot fault `BufferTooSmall`. With a count of 0 of a
Generic or Image header it writes nothing and succeeds. Two things here are the model's reading (assumption log 17,
DEDUCED): that the host's own allocation leaves every byte of DST as it was, and that the count 0 of a DualColorImage is
left out, although R87 says it of every header, because `DEC.BUF` still makes the header checks of
43_payload_decode.md R123. -/
def Obligations.DynamicDecodeNeverOverruns : Prop :=
  ∀ (e : BitVec 4) (s c : State), legalEsz e → exec (.cntT e true) s = .next c →
    (c.err ≠ .ok → decodeDynamic e s = .next c) ∧
    (c.err = .ok → ∃ t, decodeDynamic e s = .next t ∧ t.err ≠ .bufferTooSmall ∧ t.dstCap = c.count ∧
      t.count = c.count ∧ t.header = c.header ∧
      (c.count = 0 → c.header.kind ≠ .dualColor →
        t.err = .ok ∧ ∀ a, Memory.read t.dst a = Memory.read s.dst a))

/-- 30_encoding.md R83 to R86, R88: run from the list of host moves, a pseudo-operation is its final command in the
state with the operand registers set. -/
def Obligations.PseudoOperationsSetTheirOperands : Prop :=
  ∀ (s : State) (cap n p : BitVec 32) (c0 c1 : BitVec 64) (e : BitVec 4), legalEsz e →
    (s.moves = movesIsImage → Host.Core.run Sys2Proof.core 1 s = exec (.isimg true) { s with moves := [] }) ∧
    (s.moves = movesGetWidth → Host.Core.run Sys2Proof.core 1 s = exec (.getw true) { s with moves := [] }) ∧
    (s.moves = movesGetHeight → Host.Core.run Sys2Proof.core 1 s = exec (.geth true) { s with moves := [] }) ∧
    (s.moves = movesElementCount →
      Host.Core.run Sys2Proof.core 1 s = exec (.cntImg true) { s with moves := [] }) ∧
    (s.moves = movesTypedElementCount e →
      Host.Core.run Sys2Proof.core 1 s = exec (.cntT e true) { s with moves := [] }) ∧
    (s.moves = movesDecodeInto cap e →
      Host.Core.run Sys2Proof.core 2 s = exec (.decBuf e true) { s with moves := [], dstCap := cap }) ∧
    (s.moves = movesDecodeFixed cap e →
      Host.Core.run Sys2Proof.core 2 s = exec (.decFix e true) { s with moves := [], dstCap := cap }) ∧
    (s.moves = movesReconstruct n p c0 c1 cap e →
      Host.Core.run Sys2Proof.core 6 s =
        exec (.expand e)
          { s with moves := [], regN := n, srcOff := p, pal0 := c0, pal1 := c1, dstCap := cap })

/-! Properties of every operation -/

/-- R140: a fault changes nothing but `STATUS.ERR`; the one exception is a W form whose PARSE half succeeded, which keeps
the new Header: its state is the one after PARSE but for `ERR`. The two cases exclude each other. (The read history is
the model's own record, assumption log 4, and shows what was read to find the fault.) -/
def Obligations.FaultsArePrecise : Prop :=
  ∀ (i : Instr) (s p t : State), exec .parse s = .next p → exec i s = .next t → t.err ≠ .ok →
    (i.wellFormed = true ∧ i.wBit = true ∧ p.err = .ok → t = { p with err := t.err }) ∧
    (¬(i.wellFormed = true ∧ i.wBit = true ∧ p.err = .ok) →
      ∃ reads, t = { s with err := t.err, srcReads := s.srcReads ++ reads })

/-- 60_exceptions.md R142: the next command runs normally whatever `ERR` holds and overwrites it. -/
def Obligations.ErrNeverInfluencesACommand : Prop :=
  ∀ (i : Instr) (s : State) (c : ErrCode), exec i { s with err := c } = exec i s

/-- No operation writes an operand register, SRC or the host's records (10_state.md R16, 20_memory.md R41). -/
def Obligations.OperationsKeepOperandsAndSource : Prop :=
  ∀ (i : Instr) (s t : State), exec i s = .next t →
    t.srcLen = s.srcLen ∧ t.srcOff = s.srcOff ∧ t.regN = s.regN ∧ t.pal0 = s.pal0 ∧ t.pal1 = s.pal1 ∧
    t.dstCap = s.dstCap ∧ t.src = s.src ∧ t.readings = s.readings ∧ t.moves = s.moves

/-- The write columns of 10_state.md R35: an operation leaves alone the header group, `RESULT`, `COUNT` and every byte of
DST unless it is listed as writing them. EXPAND leaves alone DST from byte `N * ESZ` on and a successful decode from
byte `COUNT * ESZ` on (20_memory.md R51); a fault leaves all of DST alone (60_exceptions.md R141). -/
def Obligations.OperationsWriteOnlyWhatIsListed : Prop :=
  ∀ (i : Instr) (s t : State), exec i s = .next t →
    (writesHeader i = false →
      t.header = s.header ∧ t.hvalid = s.hvalid ∧ t.dimv = s.dimv ∧ t.palv = s.palv) ∧
    (writesResult i = false → t.result = s.result ∧ t.rvalid = s.rvalid) ∧
    (writesCount i = false → t.count = s.count) ∧
    (writesDst i = false → ∀ a, Memory.read t.dst a = Memory.read s.dst a) ∧
    (t.err ≠ .ok → ∀ a, Memory.read t.dst a = Memory.read s.dst a) ∧
    (∀ e, i = .expand e → ∀ a, s.regN.toNat * e.toNat ≤ a → Memory.read t.dst a = Memory.read s.dst a) ∧
    (∀ e w, i = .decBuf e w ∨ i = .decFix e w → t.err = .ok →
      ∀ a, t.count.toNat * e.toNat ≤ a → Memory.read t.dst a = Memory.read s.dst a)

/-- R17: the unit never reads an SRC byte at index `8 * SRC_LEN` or above: every read an operation records lies below
it. -/
def Obligations.RecordedReadsStayInSource : Prop :=
  ∀ (i : Instr) (s t : State), exec i s = .next t →
    ∃ reads, t.srcReads = s.srcReads ++ reads ∧ ∀ r ∈ reads, r.addr + r.len ≤ 8 * s.srcLen.toNat

/-- R54: the recorded reads are all that an operation depends on in SRC: any other SRC with the same bytes there gives
the same next state, the same reads among it. -/
def Obligations.RecordedReadsAreAllThatMatters : Prop :=
  ∀ (i : Instr) (s t : State) (m : Memory), exec i s = .next t →
    (∀ r ∈ t.srcReads.drop s.srcReads.length, ∀ a, r.addr ≤ a → a < r.addr + r.len →
      Memory.read m a = Memory.read s.src a) →
    exec i { s with src := m } = .next { t with src := m }

/-- 00_scope.md R5: an operation's results are a function of its inputs and of nothing else: `COUNT`, `RESULT`, `ERR`, DST
and the records of earlier operations do not matter. -/
def Obligations.ResultsDoNotDependOnHistory : Prop :=
  ∀ (i : Instr) (s s' t t' : State),
    s.srcLen = s'.srcLen → s.srcOff = s'.srcOff → s.regN = s'.regN → s.pal0 = s'.pal0 → s.pal1 = s'.pal1 →
    s.dstCap = s'.dstCap → s.header = s'.header → s.hvalid = s'.hvalid → s.dimv = s'.dimv → s.palv = s'.palv →
    s.src = s'.src → exec i s = .next t → exec i s' = .next t' →
    t.err = t'.err ∧ t.header = t'.header ∧ t.hvalid = t'.hvalid ∧ t.dimv = t'.dimv ∧ t.palv = t'.palv ∧
    (t.err = .ok → writesResult i = true → t.result = t'.result ∧ t.rvalid = t'.rvalid) ∧
    (t.err = .ok → writesCount i = true → t.count = t'.count) ∧
    (∀ a, Memory.read s.dst a = Memory.read s'.dst a → Memory.read t.dst a = Memory.read t'.dst a) ∧
    t.srcReads.drop s.srcReads.length = t'.srcReads.drop s'.srcReads.length

/-- R129 for the decodes, R117 for EXPAND, 40_header_unpack.md R98 for the accessors, 20_memory.md R53 and 00_scope.md R5
for every operation: an operation issued twice with the same operands and the same SRC leaves what it left the first time:
the same `ERR`, header, results and DST bytes. -/
def Obligations.OperationsAreIdempotent : Prop :=
  ∀ (i : Instr) (s t u : State), exec i s = .next t → exec i t = .next u →
    u.err = t.err ∧ u.header = t.header ∧ u.hvalid = t.hvalid ∧ u.dimv = t.dimv ∧ u.palv = t.palv ∧
    u.count = t.count ∧ u.result = t.result ∧ u.rvalid = t.rvalid ∧
    ∀ a, Memory.read u.dst a = Memory.read t.dst a

/-- A sized operation whose element size is not 1 to 8 raises `IllegalCommand` before anything else, its W form too. The
decoder lets none through: the model's choice for an ill-formed term (assumption log 7). -/
def Obligations.IllegalSizesAreRaisedFirst : Prop :=
  ∀ (e : BitVec 4) (w : Bool) (s : State), ¬legalEsz e →
    exec (.cntT e w) s = .next { s with err := .illegalCommand } ∧
    exec (.expand e) s = .next { s with err := .illegalCommand } ∧
    exec (.decBuf e w) s = .next { s with err := .illegalCommand } ∧
    exec (.decFix e w) s = .next { s with err := .illegalCommand }

/-! One command, one header -/

/-- R31: a write of a 32-bit value `c` to `CMD` issues the operation that `c` encodes; a `c` that is no legal command
sets `STATUS.ERR` and changes nothing else; nothing is stored, a read returns 0. -/
def Obligations.CommandWriteIssuesTheOperation : Prop :=
  ∀ (s : State) (c : Command) (rest : List HostMove), s.moves = issueMove c :: rest →
    (∀ i, decode c = .ok i → step s = exec i { s with moves := rest }) ∧
    ((¬∃ i, decode c = .ok i) → step s = .next { s with moves := rest, err := .illegalCommand }) ∧
    s.readReg 31 = 0

/-- R49: slicing a header word read as one 64-bit value gives what reading the field's bytes one by one and assembling
them by R47 gives, for every field of words 0, 1 and 2; the byte sums are those that R47 writes out. So both widths of
access give one and the same Header, for every kind. -/
def Obligations.MixedWidthViewsAgree : Prop :=
  ∀ (m : Memory) (b : Nat → Nat), (∀ a, b a = (Memory.read m a).toNat) →
    (fieldKind (Memory.word m 0)).toNat = b 0 ∧
    (fieldBpp (Memory.word m 0)).toNat = b 1 ∧
    (fieldBitCount (Memory.word m 0)).toNat = b 4 + 256 * b 5 + 65536 * b 6 + 16777216 * b 7 ∧
    (fieldWidth (Memory.word m 1)).toNat = b 8 + 256 * b 9 ∧
    (fieldHeight (Memory.word m 1)).toNat = b 10 + 256 * b 11 ∧
    (fieldColor0 (Memory.word m 2)).toNat = b 16 + 256 * b 17 + 65536 * b 18 + 16777216 * b 19 ∧
    (fieldColor1 (Memory.word m 2)).toNat = b 20 + 256 * b 21 + 65536 * b 22 + 16777216 * b 23 ∧
    ∀ k, headerOfWords k m = headerOfBytes k m
end

