-- ==== Sys2Proof/Laws/Memory.lean ====
section
/-! SUPPORT. The laws of the byte spaces: what reads back after each operation, and that each keeps the canonical
form. -/

namespace Sys2Proof.Machine

/-! One byte -/

@[simp] theorem Memory.read_nil (a : Nat) : Memory.read [] a = Config.unlistedByte := rfl

theorem Memory.read_cons (c : Host.Cell) (m : Memory) (a : Nat) :
    Memory.read (c :: m) a = if c.1 = a then c.2 else Memory.read m a := rfl

theorem Memory.read_erase (m : Memory) (a x : Nat) :
    Memory.read (Memory.erase m a) x = if x = a then Config.unlistedByte else Memory.read m x := by
  induction m with
  | nil => simp [Memory.erase]
  | cons c m ih =>
    rw [Memory.erase, List.filter_cons]
    by_cases hc : c.1 = a
    · simp only [hc, ne_eq, not_true, decide_false, Bool.false_eq_true, if_false]
      rw [show List.filter (fun c => decide (c.1 ≠ a)) m = Memory.erase m a from rfl, ih]
      by_cases hx : x = a
      · simp [hx]
      · simp [hx, Memory.read_cons, hc, Ne.symm hx]
    · simp only [ne_eq, hc, not_false_eq_true, decide_true, if_true]
      rw [Memory.read_cons, Memory.read_cons,
        show List.filter (fun c => decide (¬c.1 = a)) m = Memory.erase m a from rfl, ih]
      by_cases hx : x = a
      · subst hx; simp [hc]
      · simp [hx]

theorem Memory.read_insert (m : Memory) (a : Nat) (b : Byte) (x : Nat) (h : ∀ c ∈ m, c.1 ≠ a) :
    Memory.read (Memory.insert m a b) x = if x = a then b else Memory.read m x := by
  induction m with
  | nil => simp [Memory.insert, Memory.read_cons, eq_comm]
  | cons c m ih =>
    have hc : c.1 ≠ a := h c (List.mem_cons_self ..)
    have ih := ih fun d hd => h d (List.mem_cons_of_mem _ hd)
    by_cases hx : x = a
    · subst hx
      by_cases hlt : x < c.1 <;> simp [Memory.insert, hlt, Memory.read_cons, hc, ih]
    · by_cases hlt : a < c.1 <;> simp [Memory.insert, hlt, Memory.read_cons, ih, hx, Ne.symm hx]

theorem Memory.not_mem_erase (m : Memory) (a : Nat) : ∀ c ∈ Memory.erase m a, c.1 ≠ a := by
  intro c hc
  simpa using (List.mem_filter.mp hc).2

/-- A write changes the byte it names and no other. -/
theorem Memory.read_write (m : Memory) (a : Nat) (b : Byte) (x : Nat) :
    Memory.read (Memory.write m a b) x = if x = a then b else Memory.read m x := by
  unfold Memory.write
  split
  · next hb => rw [Memory.read_erase, hb]
  · rw [Memory.read_insert _ _ _ _ (Memory.not_mem_erase m a), Memory.read_erase]
    split <;> rfl

/-! The canonical form -/

theorem Memory.wf_nil : Memory.wf [] := by simp [Memory.wf]

theorem Memory.wf_erase {m : Memory} (h : Memory.wf m) (a : Nat) : Memory.wf (Memory.erase m a) :=
  ⟨h.1.filter _, fun c hc => h.2 c (List.mem_of_mem_filter hc)⟩

theorem Memory.mem_insert {m : Memory} {a : Nat} {b : Byte} {c : Host.Cell} (h : c ∈ Memory.insert m a b) :
    c = (a, b) ∨ c ∈ m := by
  induction m with
  | nil => simpa [Memory.insert] using h
  | cons d m ih =>
    unfold Memory.insert at h
    split at h
    · simpa using h
    · rcases List.mem_cons.mp h with h | h
      · exact .inr (h ▸ List.mem_cons_self ..)
      · exact (ih h).imp_right (List.mem_cons_of_mem _)

theorem Memory.pairwise_insert {m : Memory} {a : Nat} {b : Byte} (h : m.Pairwise (fun p q => p.1 < q.1))
    (ha : ∀ c ∈ m, c.1 ≠ a) : (Memory.insert m a b).Pairwise (fun p q => p.1 < q.1) := by
  induction m with
  | nil => simp [Memory.insert]
  | cons d m ih =>
    rw [List.pairwise_cons] at h
    have hd : d.1 ≠ a := ha d (List.mem_cons_self ..)
    unfold Memory.insert
    split
    · next hlt =>
      refine List.pairwise_cons.mpr ⟨fun c hc => ?_, List.pairwise_cons.mpr h⟩
      rcases List.mem_cons.mp hc with rfl | hc
      · exact hlt
      · exact Nat.lt_trans hlt (h.1 c hc)
    · next hlt =>
      refine List.pairwise_cons.mpr ⟨fun c hc => ?_, ih h.2 fun c hc => ha c (List.mem_cons_of_mem _ hc)⟩
      rcases Memory.mem_insert hc with rfl | hc
      · exact Nat.lt_of_le_of_ne (Nat.le_of_not_lt hlt) hd
      · exact h.1 c hc

/-- A write to an existing index keeps the canonical form. -/
theorem Memory.wf_write {m : Memory} (h : Memory.wf m) {a : Nat} (ha : a < Config.addressSpace) (b : Byte) :
    Memory.wf (Memory.write m a b) := by
  have he := Memory.wf_erase h a
  unfold Memory.write
  split
  · exact he
  · next hb =>
    refine ⟨Memory.pairwise_insert he.1 (Memory.not_mem_erase m a), fun c hc => ?_⟩
    rcases Memory.mem_insert hc with rfl | hc
    · exact ⟨hb, ha⟩
    · exact he.2 c hc

theorem Memory.read_of_lt_all {m : Memory} {a : Nat} (h : ∀ c ∈ m, a < c.1) :
    Memory.read m a = Config.unlistedByte := by
  induction m with
  | nil => rfl
  | cons c m ih =>
    have hc := h c (List.mem_cons_self ..)
    rw [Memory.read_cons, if_neg (by omega)]
    exact ih fun d hd => h d (List.mem_cons_of_mem _ hd)

/-- Equal memories are equal data: two canonical spaces that read alike everywhere are the same list. -/
theorem Memory.ext_of_wf {m m' : Memory} (h : Memory.wf m) (h' : Memory.wf m')
    (hr : ∀ a, Memory.read m a = Memory.read m' a) : m = m' := by
  induction m generalizing m' with
  | nil =>
    cases m' with
    | nil => rfl
    | cons d n =>
      have := hr d.1
      rw [Memory.read_cons, if_pos rfl] at this
      exact absurd this.symm (h'.2 d (List.mem_cons_self ..)).1
  | cons c m ih =>
    cases m' with
    | nil =>
      have := hr c.1
      rw [Memory.read_cons, if_pos rfl] at this
      exact absurd this (h.2 c (List.mem_cons_self ..)).1
    | cons d n =>
      have hp := List.pairwise_cons.mp h.1
      have hp' := List.pairwise_cons.mp h'.1
      have key : c.1 = d.1 := by
        rcases Nat.lt_trichotomy c.1 d.1 with hlt | heq | hgt
        · have := hr c.1
          rw [Memory.read_cons, if_pos rfl, Memory.read_of_lt_all (m := d :: n) (by
            intro e he
            rcases List.mem_cons.mp he with rfl | he
            · exact hlt
            · exact Nat.lt_trans hlt (hp'.1 e he))] at this
          exact absurd this (h.2 c (List.mem_cons_self ..)).1
        · exact heq
        · have := hr d.1
          rw [Memory.read_cons (d), if_pos rfl, Memory.read_of_lt_all (m := c :: m) (by
            intro e he
            rcases List.mem_cons.mp he with rfl | he
            · exact hgt
            · exact Nat.lt_trans hgt (hp.1 e he))] at this
          exact absurd this.symm (h'.2 d (List.mem_cons_self ..)).1
      have val : c.2 = d.2 := by
        have := hr c.1
        rwa [Memory.read_cons, if_pos rfl, Memory.read_cons, if_pos key.symm] at this
      have hcd : c = d := Prod.ext key val
      subst hcd
      congr 1
      refine ih ⟨hp.2, fun e he => h.2 e (List.mem_cons_of_mem _ he)⟩
        ⟨hp'.2, fun e he => h'.2 e (List.mem_cons_of_mem _ he)⟩ fun a => ?_
      by_cases hac : c.1 = a
      · subst hac
        rw [Memory.read_of_lt_all hp.1, Memory.read_of_lt_all hp'.1]
      · have := hr a
        rwa [Memory.read_cons, if_neg hac, Memory.read_cons, if_neg hac] at this

/-! Spans -/

/-- `MemWrite(a, n, v)` writes byte `k` of `v` at `a + k` for `k < n`, and nothing else (00_scope.md R11). -/
theorem Memory.read_writeLE (m : Memory) (a : Nat) (v : BitVec 64) (n x : Nat) :
    Memory.read (Memory.writeLE m a v n) x =
      if a ≤ x ∧ x < a + n then byteOf v (x - a) else Memory.read m x := by
  induction n with
  | zero => rw [if_neg (by omega)]; rfl
  | succ n ih =>
    rw [Memory.writeLE, Memory.read_write, ih]
    by_cases hx : x = a + n
    · subst hx; rw [if_pos rfl, if_pos (by omega), Nat.add_sub_cancel_left]
    · rw [if_neg hx]
      by_cases h : a ≤ x ∧ x < a + n
      · rw [if_pos h, if_pos (by omega)]
      · rw [if_neg h, if_neg (by omega)]

theorem Memory.wf_writeLE {m : Memory} (h : Memory.wf m) {a n : Nat} (ha : a + n ≤ Config.addressSpace)
    (v : BitVec 64) : Memory.wf (Memory.writeLE m a v n) := by
  induction n with
  | zero => exact h
  | succ n ih => exact Memory.wf_write (ih (by omega)) (by omega) _

/-- A supplied word sequence reads back word by word, byte `j` of a word at offset `j` (20_memory.md R40, R46). -/
theorem Memory.read_loadWords (ws : List SrcWord) (m : Memory) (a x : Nat) :
    Memory.read (Memory.loadWords m a ws) x =
      if a ≤ x ∧ x < a + 8 * ws.length then byteOf (ws.getD ((x - a) / 8) 0) ((x - a) % 8)
      else Memory.read m x := by
  induction ws generalizing m a with
  | nil => rw [if_neg (by simp)]; rfl
  | cons w ws ih =>
    rw [Memory.loadWords, ih, Memory.read_writeLE, List.length_cons]
    by_cases h1 : a + 8 ≤ x ∧ x < a + 8 + 8 * ws.length
    · rw [if_pos h1, if_pos (by omega)]
      have e1 : (x - a) / 8 = (x - (a + 8)) / 8 + 1 := by omega
      have e2 : (x - a) % 8 = (x - (a + 8)) % 8 := by omega
      rw [e1, e2, List.getD_cons_succ]
    · rw [if_neg h1]
      by_cases h2 : a ≤ x ∧ x < a + 8
      · have e1 : (x - a) / 8 = 0 := by omega
        have e2 : (x - a) % 8 = x - a := by omega
        rw [if_pos h2, if_pos (by omega), e1, e2, List.getD_cons_zero]
      · rw [if_neg h2, if_neg (by omega)]

theorem Memory.wf_loadWords {m : Memory} (h : Memory.wf m) {a : Nat} (ws : List SrcWord)
    (ha : a + 8 * ws.length ≤ Config.addressSpace) : Memory.wf (Memory.loadWords m a ws) := by
  induction ws generalizing m a with
  | nil => exact h
  | cons w ws ih =>
    rw [List.length_cons] at ha
    exact ih (Memory.wf_writeLE h (by omega) w) (by omega)

/-- The copy of `k` bytes from SRC index `a` (43_payload_decode.md R122). -/
theorem read_copyInto (src dst : Memory) (a k x : Nat) :
    Memory.read (copyInto src dst a k) x = if x < k then Memory.read src (a + x) else Memory.read dst x := by
  induction k with
  | zero => simp [copyInto]
  | succ k ih =>
    rw [copyInto, Memory.read_write, ih]
    by_cases hx : x = k
    · subst hx; rw [if_pos rfl, if_pos (by omega)]
    · rw [if_neg hx]
      by_cases h : x < k
      · rw [if_pos h, if_pos (by omega)]
      · rw [if_neg h, if_neg (by omega)]

theorem wf_copyInto (src : Memory) {dst : Memory} (h : Memory.wf dst) (a : Nat) {k : Nat}
    (hk : k ≤ Config.addressSpace) : Memory.wf (copyInto src dst a k) := by
  induction k with
  | zero => exact h
  | succ k ih => exact Memory.wf_write (ih (by omega)) (by omega) _

/-- The expansion of `n` elements of `s` bytes (42_bitplane_expand.md R110, R111). -/
theorem read_expandInto (src dst : Memory) (a : Nat) (p0 p1 : BitVec 64) (s n x : Nat) :
    Memory.read (expandInto src dst a p0 p1 s n) x =
      if x < n * s then byteOf (if Memory.sel src a (x / s) then p1 else p0) (x % s)
      else Memory.read dst x := by
  induction n with
  | zero => rw [if_neg (by omega)]; rfl
  | succ n ih =>
    rw [expandInto, Memory.read_writeLE, ih, Nat.succ_mul]
    by_cases h : n * s ≤ x ∧ x < n * s + s
    · have hs : 0 < s := by omega
      have hq : x / s = n := by
        obtain ⟨d, rfl⟩ : ∃ d, x = d + s * n := ⟨x - n * s, by rw [Nat.mul_comm s n]; omega⟩
        have hd : d < s := by rw [Nat.mul_comm s n] at h; omega
        rw [Nat.add_mul_div_left _ _ hs, Nat.div_eq_of_lt hd, Nat.zero_add]
      have hm : x % s = x - n * s := by
        have := Nat.div_add_mod x s
        rw [hq, Nat.mul_comm] at this
        omega
      rw [if_pos h, if_pos h.2, hq, hm]
    · rw [if_neg h]
      by_cases h2 : x < n * s
      · have h3 : x < n * s + s := by omega
        rw [if_pos h2, if_pos h3]
      · have h3 : ¬x < n * s + s := by omega
        rw [if_neg h2, if_neg h3]

theorem wf_expandInto (src : Memory) {dst : Memory} (h : Memory.wf dst) (a : Nat) (p0 p1 : BitVec 64) (s : Nat)
    {n : Nat} (hn : n * s ≤ Config.addressSpace) : Memory.wf (expandInto src dst a p0 p1 s n) := by
  induction n with
  | zero => exact h
  | succ n ih =>
    rw [Nat.succ_mul] at hn
    exact Memory.wf_writeLE (ih (by omega)) hn _

/-! Words and header fields -/

theorem Memory.readLE_lt (m : Memory) (a n : Nat) : Memory.readLE m a n < 256 ^ n := by
  induction n with
  | zero => simp [Memory.readLE]
  | succ n ih =>
    have hb := (Memory.read m (a + n)).isLt
    rw [Memory.readLE, Nat.pow_succ]
    have : 256 ^ n * (Memory.read m (a + n)).toNat ≤ 256 ^ n * 255 := Nat.mul_le_mul_left _ (by omega)
    omega

/-- Byte `j` of the little-endian reading of `n` bytes is the byte at offset `j` (20_memory.md R46, R49). -/
theorem Memory.readLE_byte (m : Memory) (a : Nat) {n j : Nat} (hj : j < n) :
    Memory.readLE m a n / 256 ^ j % 256 = (Memory.read m (a + j)).toNat := by
  induction n with
  | zero => omega
  | succ n ih =>
    have hlt := Memory.readLE_lt m a n
    have hb := (Memory.read m (a + n)).isLt
    rw [Memory.readLE]
    by_cases h : j = n
    · subst h
      rw [Nat.add_mul_div_left _ _ (by positivity), Nat.div_eq_of_lt hlt, Nat.zero_add, Nat.mod_eq_of_lt hb]
    · have hjn : j < n := by omega
      obtain ⟨d, rfl⟩ : ∃ d, n = j + 1 + d := ⟨n - j - 1, by omega⟩
      have e : 256 ^ (j + 1 + d) * (Memory.read m (a + (j + 1 + d))).toNat
          = 256 ^ j * (256 * (256 ^ d * (Memory.read m (a + (j + 1 + d))).toNat)) := by ring
      rw [e, Nat.add_mul_div_left _ _ (by positivity), Nat.add_mul_mod_self_left, ih hjn]

/-- Byte `j` of SRC word `k` is SRC byte `8k + j` (20_memory.md R46). -/
theorem Memory.word_byte (m : Memory) (k : Nat) {j : Nat} (hj : j < 8) :
    byteOf (Memory.word m k) j = Memory.read m (8 * k + j) := by
  apply BitVec.eq_of_toNat_eq
  have hlt : Memory.readLE m (8 * k) 8 < 2 ^ 64 := Memory.readLE_lt m (8 * k) 8
  rw [byteOf, Memory.word, BitVec.extractLsb'_toNat, BitVec.toNat_ofNat, Nat.mod_eq_of_lt hlt,
    Nat.shiftRight_eq_div_pow, ← Memory.readLE_byte m (8 * k) hj, Nat.pow_mul]

/-- The bytes of a reading from its byte `o` on are the reading from that byte on. -/
theorem Memory.readLE_add (m : Memory) (a o n : Nat) :
    Memory.readLE m a (o + n) = Memory.readLE m a o + 256 ^ o * Memory.readLE m (a + o) n := by
  induction n with
  | zero => rfl
  | succ n ih => rw [← Nat.add_assoc, Memory.readLE, ih, Memory.readLE, Nat.pow_add, Nat.add_assoc a o n]; ring

/-- A slice of `n` bytes at byte `o` of SRC word `k` is the value of those bytes, first byte least significant
(20_memory.md R47, R49). -/
theorem Memory.word_slice_toNat (m : Memory) (k : Nat) {o n : Nat} (h : o + n ≤ 8) :
    ((Memory.word m k).extractLsb' (8 * o) (8 * n)).toNat = Memory.readLE m (8 * k + o) n := by
  obtain ⟨d, hd⟩ : ∃ d, 8 = o + (n + d) := ⟨8 - o - n, by omega⟩
  have hlt : Memory.readLE m (8 * k) 8 < 2 ^ 64 := Memory.readLE_lt m (8 * k) 8
  have e : Memory.readLE m (8 * k) 8
      = Memory.readLE m (8 * k) o + 256 ^ o * (Memory.readLE m (8 * k + o) n
        + 256 ^ n * Memory.readLE m (8 * k + o + n) d) := by
    rw [← Memory.readLE_add, ← Memory.readLE_add, ← hd]
  rw [Memory.word, BitVec.extractLsb'_toNat, BitVec.toNat_ofNat, Nat.mod_eq_of_lt hlt, Nat.shiftRight_eq_div_pow,
    Nat.pow_mul, Nat.pow_mul, e, Nat.add_mul_div_left _ _ (by positivity),
    Nat.div_eq_of_lt (Memory.readLE_lt m (8 * k) o), Nat.zero_add, Nat.add_mul_mod_self_left,
    Nat.mod_eq_of_lt (Memory.readLE_lt m (8 * k + o) n)]

end Sys2Proof.Machine
end

