-- ==== Sys2Proof/Laws/State.lean ====
section
/-! SUPPORT. One lemma per field per state update, true by rfl: no later proof unfolds a record update. -/

namespace Sys2Proof.Machine

/-! `State.raise` -/

@[simp] theorem State.raise_srcLen (s : State) (e : ErrCode) : (s.raise e).srcLen = s.srcLen := rfl
@[simp] theorem State.raise_srcOff (s : State) (e : ErrCode) : (s.raise e).srcOff = s.srcOff := rfl
@[simp] theorem State.raise_regN (s : State) (e : ErrCode) : (s.raise e).regN = s.regN := rfl
@[simp] theorem State.raise_pal0 (s : State) (e : ErrCode) : (s.raise e).pal0 = s.pal0 := rfl
@[simp] theorem State.raise_pal1 (s : State) (e : ErrCode) : (s.raise e).pal1 = s.pal1 := rfl
@[simp] theorem State.raise_dstCap (s : State) (e : ErrCode) : (s.raise e).dstCap = s.dstCap := rfl
@[simp] theorem State.raise_header (s : State) (e : ErrCode) : (s.raise e).header = s.header := rfl
@[simp] theorem State.raise_count (s : State) (e : ErrCode) : (s.raise e).count = s.count := rfl
@[simp] theorem State.raise_result (s : State) (e : ErrCode) : (s.raise e).result = s.result := rfl
@[simp] theorem State.raise_err (s : State) (e : ErrCode) : (s.raise e).err = e := rfl
@[simp] theorem State.raise_hvalid (s : State) (e : ErrCode) : (s.raise e).hvalid = s.hvalid := rfl
@[simp] theorem State.raise_dimv (s : State) (e : ErrCode) : (s.raise e).dimv = s.dimv := rfl
@[simp] theorem State.raise_palv (s : State) (e : ErrCode) : (s.raise e).palv = s.palv := rfl
@[simp] theorem State.raise_rvalid (s : State) (e : ErrCode) : (s.raise e).rvalid = s.rvalid := rfl
@[simp] theorem State.raise_src (s : State) (e : ErrCode) : (s.raise e).src = s.src := rfl
@[simp] theorem State.raise_dst (s : State) (e : ErrCode) : (s.raise e).dst = s.dst := rfl
@[simp] theorem State.raise_srcReads (s : State) (e : ErrCode) : (s.raise e).srcReads = s.srcReads := rfl
@[simp] theorem State.raise_readings (s : State) (e : ErrCode) : (s.raise e).readings = s.readings := rfl
@[simp] theorem State.raise_moves (s : State) (e : ErrCode) : (s.raise e).moves = s.moves := rfl

/-! `State.finish` -/

@[simp] theorem State.finish_srcLen (s : State) : (s.finish).srcLen = s.srcLen := rfl
@[simp] theorem State.finish_srcOff (s : State) : (s.finish).srcOff = s.srcOff := rfl
@[simp] theorem State.finish_regN (s : State) : (s.finish).regN = s.regN := rfl
@[simp] theorem State.finish_pal0 (s : State) : (s.finish).pal0 = s.pal0 := rfl
@[simp] theorem State.finish_pal1 (s : State) : (s.finish).pal1 = s.pal1 := rfl
@[simp] theorem State.finish_dstCap (s : State) : (s.finish).dstCap = s.dstCap := rfl
@[simp] theorem State.finish_header (s : State) : (s.finish).header = s.header := rfl
@[simp] theorem State.finish_count (s : State) : (s.finish).count = s.count := rfl
@[simp] theorem State.finish_result (s : State) : (s.finish).result = s.result := rfl
@[simp] theorem State.finish_err (s : State) : (s.finish).err = .ok := rfl
@[simp] theorem State.finish_hvalid (s : State) : (s.finish).hvalid = s.hvalid := rfl
@[simp] theorem State.finish_dimv (s : State) : (s.finish).dimv = s.dimv := rfl
@[simp] theorem State.finish_palv (s : State) : (s.finish).palv = s.palv := rfl
@[simp] theorem State.finish_rvalid (s : State) : (s.finish).rvalid = s.rvalid := rfl
@[simp] theorem State.finish_src (s : State) : (s.finish).src = s.src := rfl
@[simp] theorem State.finish_dst (s : State) : (s.finish).dst = s.dst := rfl
@[simp] theorem State.finish_srcReads (s : State) : (s.finish).srcReads = s.srcReads := rfl
@[simp] theorem State.finish_readings (s : State) : (s.finish).readings = s.readings := rfl
@[simp] theorem State.finish_moves (s : State) : (s.finish).moves = s.moves := rfl

/-! `State.commitHeader` -/

@[simp] theorem State.commitHeader_srcLen (s : State) (h : Header) : (s.commitHeader h).srcLen = s.srcLen := rfl
@[simp] theorem State.commitHeader_srcOff (s : State) (h : Header) : (s.commitHeader h).srcOff = s.srcOff := rfl
@[simp] theorem State.commitHeader_regN (s : State) (h : Header) : (s.commitHeader h).regN = s.regN := rfl
@[simp] theorem State.commitHeader_pal0 (s : State) (h : Header) : (s.commitHeader h).pal0 = s.pal0 := rfl
@[simp] theorem State.commitHeader_pal1 (s : State) (h : Header) : (s.commitHeader h).pal1 = s.pal1 := rfl
@[simp] theorem State.commitHeader_dstCap (s : State) (h : Header) : (s.commitHeader h).dstCap = s.dstCap := rfl
@[simp] theorem State.commitHeader_header (s : State) (h : Header) : (s.commitHeader h).header = h := rfl
@[simp] theorem State.commitHeader_count (s : State) (h : Header) : (s.commitHeader h).count = s.count := rfl
@[simp] theorem State.commitHeader_result (s : State) (h : Header) : (s.commitHeader h).result = s.result := rfl
@[simp] theorem State.commitHeader_err (s : State) (h : Header) : (s.commitHeader h).err = s.err := rfl
@[simp] theorem State.commitHeader_hvalid (s : State) (h : Header) : (s.commitHeader h).hvalid = true := rfl
@[simp] theorem State.commitHeader_dimv (s : State) (h : Header) : (s.commitHeader h).dimv = dimvOf h.kind := rfl
@[simp] theorem State.commitHeader_palv (s : State) (h : Header) : (s.commitHeader h).palv = palvOf h.kind := rfl
@[simp] theorem State.commitHeader_rvalid (s : State) (h : Header) : (s.commitHeader h).rvalid = s.rvalid := rfl
@[simp] theorem State.commitHeader_src (s : State) (h : Header) : (s.commitHeader h).src = s.src := rfl
@[simp] theorem State.commitHeader_dst (s : State) (h : Header) : (s.commitHeader h).dst = s.dst := rfl
@[simp] theorem State.commitHeader_srcReads (s : State) (h : Header) : (s.commitHeader h).srcReads = s.srcReads := rfl
@[simp] theorem State.commitHeader_readings (s : State) (h : Header) : (s.commitHeader h).readings = s.readings := rfl
@[simp] theorem State.commitHeader_moves (s : State) (h : Header) : (s.commitHeader h).moves = s.moves := rfl

/-! `State.giveResult` -/

@[simp] theorem State.giveResult_srcLen (s : State) (v : BitVec 32) : (s.giveResult v).srcLen = s.srcLen := rfl
@[simp] theorem State.giveResult_srcOff (s : State) (v : BitVec 32) : (s.giveResult v).srcOff = s.srcOff := rfl
@[simp] theorem State.giveResult_regN (s : State) (v : BitVec 32) : (s.giveResult v).regN = s.regN := rfl
@[simp] theorem State.giveResult_pal0 (s : State) (v : BitVec 32) : (s.giveResult v).pal0 = s.pal0 := rfl
@[simp] theorem State.giveResult_pal1 (s : State) (v : BitVec 32) : (s.giveResult v).pal1 = s.pal1 := rfl
@[simp] theorem State.giveResult_dstCap (s : State) (v : BitVec 32) : (s.giveResult v).dstCap = s.dstCap := rfl
@[simp] theorem State.giveResult_header (s : State) (v : BitVec 32) : (s.giveResult v).header = s.header := rfl
@[simp] theorem State.giveResult_count (s : State) (v : BitVec 32) : (s.giveResult v).count = s.count := rfl
@[simp] theorem State.giveResult_result (s : State) (v : BitVec 32) : (s.giveResult v).result = v := rfl
@[simp] theorem State.giveResult_err (s : State) (v : BitVec 32) : (s.giveResult v).err = .ok := rfl
@[simp] theorem State.giveResult_hvalid (s : State) (v : BitVec 32) : (s.giveResult v).hvalid = s.hvalid := rfl
@[simp] theorem State.giveResult_dimv (s : State) (v : BitVec 32) : (s.giveResult v).dimv = s.dimv := rfl
@[simp] theorem State.giveResult_palv (s : State) (v : BitVec 32) : (s.giveResult v).palv = s.palv := rfl
@[simp] theorem State.giveResult_rvalid (s : State) (v : BitVec 32) : (s.giveResult v).rvalid = true := rfl
@[simp] theorem State.giveResult_src (s : State) (v : BitVec 32) : (s.giveResult v).src = s.src := rfl
@[simp] theorem State.giveResult_dst (s : State) (v : BitVec 32) : (s.giveResult v).dst = s.dst := rfl
@[simp] theorem State.giveResult_srcReads (s : State) (v : BitVec 32) : (s.giveResult v).srcReads = s.srcReads := rfl
@[simp] theorem State.giveResult_readings (s : State) (v : BitVec 32) : (s.giveResult v).readings = s.readings := rfl
@[simp] theorem State.giveResult_moves (s : State) (v : BitVec 32) : (s.giveResult v).moves = s.moves := rfl

/-! `State.giveNoResult` -/

@[simp] theorem State.giveNoResult_srcLen (s : State) : (s.giveNoResult).srcLen = s.srcLen := rfl
@[simp] theorem State.giveNoResult_srcOff (s : State) : (s.giveNoResult).srcOff = s.srcOff := rfl
@[simp] theorem State.giveNoResult_regN (s : State) : (s.giveNoResult).regN = s.regN := rfl
@[simp] theorem State.giveNoResult_pal0 (s : State) : (s.giveNoResult).pal0 = s.pal0 := rfl
@[simp] theorem State.giveNoResult_pal1 (s : State) : (s.giveNoResult).pal1 = s.pal1 := rfl
@[simp] theorem State.giveNoResult_dstCap (s : State) : (s.giveNoResult).dstCap = s.dstCap := rfl
@[simp] theorem State.giveNoResult_header (s : State) : (s.giveNoResult).header = s.header := rfl
@[simp] theorem State.giveNoResult_count (s : State) : (s.giveNoResult).count = s.count := rfl
@[simp] theorem State.giveNoResult_result (s : State) : (s.giveNoResult).result = 0 := rfl
@[simp] theorem State.giveNoResult_err (s : State) : (s.giveNoResult).err = .ok := rfl
@[simp] theorem State.giveNoResult_hvalid (s : State) : (s.giveNoResult).hvalid = s.hvalid := rfl
@[simp] theorem State.giveNoResult_dimv (s : State) : (s.giveNoResult).dimv = s.dimv := rfl
@[simp] theorem State.giveNoResult_palv (s : State) : (s.giveNoResult).palv = s.palv := rfl
@[simp] theorem State.giveNoResult_rvalid (s : State) : (s.giveNoResult).rvalid = false := rfl
@[simp] theorem State.giveNoResult_src (s : State) : (s.giveNoResult).src = s.src := rfl
@[simp] theorem State.giveNoResult_dst (s : State) : (s.giveNoResult).dst = s.dst := rfl
@[simp] theorem State.giveNoResult_srcReads (s : State) : (s.giveNoResult).srcReads = s.srcReads := rfl
@[simp] theorem State.giveNoResult_readings (s : State) : (s.giveNoResult).readings = s.readings := rfl
@[simp] theorem State.giveNoResult_moves (s : State) : (s.giveNoResult).moves = s.moves := rfl

/-! `State.giveCount` -/

@[simp] theorem State.giveCount_srcLen (s : State) (n : Nat) : (s.giveCount n).srcLen = s.srcLen := rfl
@[simp] theorem State.giveCount_srcOff (s : State) (n : Nat) : (s.giveCount n).srcOff = s.srcOff := rfl
@[simp] theorem State.giveCount_regN (s : State) (n : Nat) : (s.giveCount n).regN = s.regN := rfl
@[simp] theorem State.giveCount_pal0 (s : State) (n : Nat) : (s.giveCount n).pal0 = s.pal0 := rfl
@[simp] theorem State.giveCount_pal1 (s : State) (n : Nat) : (s.giveCount n).pal1 = s.pal1 := rfl
@[simp] theorem State.giveCount_dstCap (s : State) (n : Nat) : (s.giveCount n).dstCap = s.dstCap := rfl
@[simp] theorem State.giveCount_header (s : State) (n : Nat) : (s.giveCount n).header = s.header := rfl
@[simp] theorem State.giveCount_count (s : State) (n : Nat) : (s.giveCount n).count = BitVec.ofNat 32 n := rfl
@[simp] theorem State.giveCount_result (s : State) (n : Nat) : (s.giveCount n).result = s.result := rfl
@[simp] theorem State.giveCount_err (s : State) (n : Nat) : (s.giveCount n).err = .ok := rfl
@[simp] theorem State.giveCount_hvalid (s : State) (n : Nat) : (s.giveCount n).hvalid = s.hvalid := rfl
@[simp] theorem State.giveCount_dimv (s : State) (n : Nat) : (s.giveCount n).dimv = s.dimv := rfl
@[simp] theorem State.giveCount_palv (s : State) (n : Nat) : (s.giveCount n).palv = s.palv := rfl
@[simp] theorem State.giveCount_rvalid (s : State) (n : Nat) : (s.giveCount n).rvalid = s.rvalid := rfl
@[simp] theorem State.giveCount_src (s : State) (n : Nat) : (s.giveCount n).src = s.src := rfl
@[simp] theorem State.giveCount_dst (s : State) (n : Nat) : (s.giveCount n).dst = s.dst := rfl
@[simp] theorem State.giveCount_srcReads (s : State) (n : Nat) : (s.giveCount n).srcReads = s.srcReads := rfl
@[simp] theorem State.giveCount_readings (s : State) (n : Nat) : (s.giveCount n).readings = s.readings := rfl
@[simp] theorem State.giveCount_moves (s : State) (n : Nat) : (s.giveCount n).moves = s.moves := rfl

/-! `State.resetUnit` -/

@[simp] theorem State.resetUnit_srcLen (s : State) : (s.resetUnit).srcLen = State.reset.srcLen := rfl
@[simp] theorem State.resetUnit_srcOff (s : State) : (s.resetUnit).srcOff = State.reset.srcOff := rfl
@[simp] theorem State.resetUnit_regN (s : State) : (s.resetUnit).regN = State.reset.regN := rfl
@[simp] theorem State.resetUnit_pal0 (s : State) : (s.resetUnit).pal0 = State.reset.pal0 := rfl
@[simp] theorem State.resetUnit_pal1 (s : State) : (s.resetUnit).pal1 = State.reset.pal1 := rfl
@[simp] theorem State.resetUnit_dstCap (s : State) : (s.resetUnit).dstCap = State.reset.dstCap := rfl
@[simp] theorem State.resetUnit_header (s : State) : (s.resetUnit).header = State.reset.header := rfl
@[simp] theorem State.resetUnit_count (s : State) : (s.resetUnit).count = State.reset.count := rfl
@[simp] theorem State.resetUnit_result (s : State) : (s.resetUnit).result = State.reset.result := rfl
@[simp] theorem State.resetUnit_err (s : State) : (s.resetUnit).err = State.reset.err := rfl
@[simp] theorem State.resetUnit_hvalid (s : State) : (s.resetUnit).hvalid = State.reset.hvalid := rfl
@[simp] theorem State.resetUnit_dimv (s : State) : (s.resetUnit).dimv = State.reset.dimv := rfl
@[simp] theorem State.resetUnit_palv (s : State) : (s.resetUnit).palv = State.reset.palv := rfl
@[simp] theorem State.resetUnit_rvalid (s : State) : (s.resetUnit).rvalid = State.reset.rvalid := rfl
@[simp] theorem State.resetUnit_src (s : State) : (s.resetUnit).src = s.src := rfl
@[simp] theorem State.resetUnit_dst (s : State) : (s.resetUnit).dst = s.dst := rfl
@[simp] theorem State.resetUnit_srcReads (s : State) : (s.resetUnit).srcReads = s.srcReads := rfl
@[simp] theorem State.resetUnit_readings (s : State) : (s.resetUnit).readings = s.readings := rfl
@[simp] theorem State.resetUnit_moves (s : State) : (s.resetUnit).moves = s.moves := rfl

/-! `State.noteRead` -/

@[simp] theorem State.noteRead_srcLen (s : State) (a n : Nat) : (s.noteRead a n).srcLen = s.srcLen := rfl
@[simp] theorem State.noteRead_srcOff (s : State) (a n : Nat) : (s.noteRead a n).srcOff = s.srcOff := rfl
@[simp] theorem State.noteRead_regN (s : State) (a n : Nat) : (s.noteRead a n).regN = s.regN := rfl
@[simp] theorem State.noteRead_pal0 (s : State) (a n : Nat) : (s.noteRead a n).pal0 = s.pal0 := rfl
@[simp] theorem State.noteRead_pal1 (s : State) (a n : Nat) : (s.noteRead a n).pal1 = s.pal1 := rfl
@[simp] theorem State.noteRead_dstCap (s : State) (a n : Nat) : (s.noteRead a n).dstCap = s.dstCap := rfl
@[simp] theorem State.noteRead_header (s : State) (a n : Nat) : (s.noteRead a n).header = s.header := rfl
@[simp] theorem State.noteRead_count (s : State) (a n : Nat) : (s.noteRead a n).count = s.count := rfl
@[simp] theorem State.noteRead_result (s : State) (a n : Nat) : (s.noteRead a n).result = s.result := rfl
@[simp] theorem State.noteRead_err (s : State) (a n : Nat) : (s.noteRead a n).err = s.err := rfl
@[simp] theorem State.noteRead_hvalid (s : State) (a n : Nat) : (s.noteRead a n).hvalid = s.hvalid := rfl
@[simp] theorem State.noteRead_dimv (s : State) (a n : Nat) : (s.noteRead a n).dimv = s.dimv := rfl
@[simp] theorem State.noteRead_palv (s : State) (a n : Nat) : (s.noteRead a n).palv = s.palv := rfl
@[simp] theorem State.noteRead_rvalid (s : State) (a n : Nat) : (s.noteRead a n).rvalid = s.rvalid := rfl
@[simp] theorem State.noteRead_src (s : State) (a n : Nat) : (s.noteRead a n).src = s.src := rfl
@[simp] theorem State.noteRead_dst (s : State) (a n : Nat) : (s.noteRead a n).dst = s.dst := rfl
@[simp] theorem State.noteRead_srcReads (s : State) (a n : Nat) : (s.noteRead a n).srcReads = s.srcReads ++ spanReads a n := rfl
@[simp] theorem State.noteRead_readings (s : State) (a n : Nat) : (s.noteRead a n).readings = s.readings := rfl
@[simp] theorem State.noteRead_moves (s : State) (a n : Nat) : (s.noteRead a n).moves = s.moves := rfl

@[simp] theorem spanReads_zero (a : Nat) : spanReads a 0 = [] := rfl

theorem mem_spanReads {a n : Nat} {r : SrcRead} : r ∈ spanReads a n ↔ n ≠ 0 ∧ r = ⟨a, n⟩ := by
  unfold spanReads
  split <;> simp_all

end Sys2Proof.Machine
end

