-- ==== Sys2Proof/Laws/Ops.lean ====
section
/-! SUPPORT. For each shared operation, what it can do, said once. -/

namespace Sys2Proof.Machine

/-! Kinds and header fields -/

/-- A kind byte spells a kind exactly when it is that kind's code (30_encoding.md R65, R72). -/
theorem kindOfByte_eq_some (b : Byte) (k : Kind) : kindOfByte b = some k ↔ b = k.code := by
  revert b
  cases k <;> decide

theorem kindOfByte_eq_none (b : Byte) : kindOfByte b = none ↔ 3 ≤ b.toNat := by
  revert b
  decide

theorem fieldKind_word (m : Memory) : fieldKind (Memory.word m 0) = Memory.read m 0 :=
  Memory.word_byte m 0 (j := 0) (by omega)

theorem fieldBpp_word (m : Memory) : fieldBpp (Memory.word m 0) = Memory.read m 1 :=
  Memory.word_byte m 0 (j := 1) (by omega)

theorem byteOf_getLsbD (v : BitVec 64) (k i : Nat) :
    (byteOf v k).getLsbD i = (decide (i < 8) && v.getLsbD (8 * k + i)) :=
  BitVec.getLsbD_extractLsb' ..

/-- A field of `n + 8` bits is its low byte below the field of the `n` bits above it. -/
theorem extract_byte_below (v : BitVec 64) (n j : Nat) :
    v.extractLsb' (8 * j) (n + 8) = v.extractLsb' (8 * (j + 1)) n ++ byteOf v j := by
  apply BitVec.eq_of_getLsbD_eq
  intro i hi
  rw [BitVec.getLsbD_append, byteOf_getLsbD, BitVec.getLsbD_extractLsb', BitVec.getLsbD_extractLsb']
  by_cases h : i < 8
  · simp [h, hi]
  · simp only [h, hi, show i - 8 < n by omega, decide_true, decide_false, Bool.true_and]
    congr 1
    omega

/-- Two bytes side by side in a word are the two bytes of the field there. -/
theorem extract_two (v : BitVec 64) (j : Nat) :
    v.extractLsb' (8 * j) 16 = byteOf v (j + 1) ++ byteOf v j :=
  extract_byte_below v 8 j

/-- Four bytes side by side in a word are the four bytes of the field there. -/
theorem extract_four (v : BitVec 64) (j : Nat) :
    v.extractLsb' (8 * j) 32 = byteOf v (j + 3) ++ byteOf v (j + 2) ++ byteOf v (j + 1) ++ byteOf v j := by
  have h1 := extract_byte_below v 24 j
  have h2 := extract_byte_below v 16 (j + 1)
  have h3 := extract_byte_below v 8 (j + 2)
  rw [h3] at h2
  rw [h2] at h1
  exact h1

/-- `bit_count` is bytes 4 to 7, little-endian (20_memory.md R47). -/
theorem fieldBitCount_word (m : Memory) :
    fieldBitCount (Memory.word m 0)
      = Memory.read m 7 ++ Memory.read m 6 ++ Memory.read m 5 ++ Memory.read m 4 := by
  refine (extract_four _ 4).trans ?_
  rw [Memory.word_byte, Memory.word_byte, Memory.word_byte, Memory.word_byte] <;> omega

/-- `width` is bytes 8 and 9 (R47). -/
theorem fieldWidth_word (m : Memory) :
    fieldWidth (Memory.word m 1) = Memory.read m 9 ++ Memory.read m 8 := by
  refine (extract_two _ 0).trans ?_
  rw [Memory.word_byte, Memory.word_byte] <;> omega

/-- `height` is bytes 10 and 11 (R47). -/
theorem fieldHeight_word (m : Memory) :
    fieldHeight (Memory.word m 1) = Memory.read m 11 ++ Memory.read m 10 := by
  refine (extract_two _ 2).trans ?_
  rw [Memory.word_byte, Memory.word_byte] <;> omega

/-- `color0` is bytes 16 to 19 (R47). -/
theorem fieldColor0_word (m : Memory) :
    fieldColor0 (Memory.word m 2)
      = Memory.read m 19 ++ Memory.read m 18 ++ Memory.read m 17 ++ Memory.read m 16 := by
  refine (extract_four _ 0).trans ?_
  rw [Memory.word_byte, Memory.word_byte, Memory.word_byte, Memory.word_byte] <;> omega

/-- `color1` is bytes 20 to 23 (R47). -/
theorem fieldColor1_word (m : Memory) :
    fieldColor1 (Memory.word m 2)
      = Memory.read m 23 ++ Memory.read m 22 ++ Memory.read m 21 ++ Memory.read m 20 := by
  refine (extract_four _ 4).trans ?_
  rw [Memory.word_byte, Memory.word_byte, Memory.word_byte, Memory.word_byte] <;> omega

/-! Counts -/

/-- The product fits COUNT (41_element_count.md R103). -/
theorem imageCount_lt (h : Header) : imageCount h < 2 ^ 32 := by
  have := Nat.mul_le_mul (Nat.le_of_lt_succ h.width.isLt) (Nat.le_of_lt_succ h.height.isLt)
  unfold imageCount
  omega

/-- The quotient fits COUNT (R104). -/
theorem spanCount_lt (h : Header) (s : Nat) : spanCount h s < 2 ^ 32 := by
  have h1 := h.bitCount.isLt
  have h2 : h.bitCount.toNat / 8 / s ≤ h.bitCount.toNat / 8 := Nat.div_le_self _ _
  unfold spanCount
  omega

/-- The typed count fits COUNT (R26, R103, R104). -/
theorem typedCount_lt (h : Header) (s : Nat) : typedCount h s < 2 ^ 32 := by
  unfold typedCount
  split
  · exact imageCount_lt h
  · exact spanCount_lt h s
  · exact spanCount_lt h s

/-- `bit_count` has bit 31 set exactly when it is 2^31 or more (R102). -/
theorem bitCountTooLarge_iff (h : Header) : bitCountTooLarge h = true ↔ 2 ^ 31 ≤ h.bitCount.toNat := by
  have hlt := h.bitCount.isLt
  rw [bitCountTooLarge, ← BitVec.testBit_toNat, Nat.testBit_eq_decide_div_mod_eq]
  simp only [decide_eq_true_eq]
  omega

/-- The span check (20_memory.md R42). -/
theorem spanInSource_iff (s : State) (a n : Nat) :
    spanInSource s a n = true ↔ n = 0 ∨ a + n ≤ 8 * s.srcLen.toNat := by
  simp [spanInSource]

/-! PARSE and the W form -/

@[simp] theorem headerOfWords_kind (k : Kind) (m : Memory) : (headerOfWords k m).kind = k := by cases k <;> rfl
@[simp] theorem headerOfBytes_kind (k : Kind) (m : Memory) : (headerOfBytes k m).kind = k := rfl

/-- PARSE ends in one of two ways (40_header_unpack.md R91): it raises a fault and changes nothing but `ERR`, or it
commits a whole Header. In both the header reads are recorded. -/
theorem parseStep_cases (s : State) :
    (∃ e, (unpackHeader s.srcLen s.src).2 = .error e ∧
      parseStep s =
        State.raise { s with srcReads := s.srcReads ++ (unpackHeader s.srcLen s.src).1 } e) ∨
    (∃ h, (unpackHeader s.srcLen s.src).2 = .ok h ∧
      parseStep s = State.finish
        (State.commitHeader { s with srcReads := s.srcReads ++ (unpackHeader s.srcLen s.src).1 } h)) := by
  unfold parseStep
  cases (unpackHeader s.srcLen s.src).2 with
  | error e => exact .inl ⟨e, rfl, rfl⟩
  | ok h => exact .inr ⟨h, rfl, rfl⟩

/-- A fault of PARSE is `SourceRange` or `ReservedKind` (R89, 60_exceptions.md R138). -/
theorem unpackHeader_error (n : BitVec 32) (m : Memory) {e : ErrCode} (h : (unpackHeader n m).2 = .error e) :
    e = .sourceRange ∨ e = .reservedKind := by
  revert h
  unfold unpackHeader
  repeat' split
  all_goals simp
  all_goals rintro rfl; simp

/-- PARSE reads the operand registers and SRC and writes neither, nor DST, nor the results (R89). -/
theorem parseStep_keeps (s : State) :
    (parseStep s).srcLen = s.srcLen ∧ (parseStep s).srcOff = s.srcOff ∧ (parseStep s).regN = s.regN ∧
    (parseStep s).pal0 = s.pal0 ∧ (parseStep s).pal1 = s.pal1 ∧ (parseStep s).dstCap = s.dstCap ∧
    (parseStep s).count = s.count ∧ (parseStep s).result = s.result ∧ (parseStep s).rvalid = s.rvalid ∧
    (parseStep s).src = s.src ∧ (parseStep s).dst = s.dst ∧ (parseStep s).readings = s.readings ∧
    (parseStep s).moves = s.moves := by
  rcases parseStep_cases s with ⟨e, -, h⟩ | ⟨hd, -, h⟩ <;> rw [h] <;> simp

/-- The state in which the body of an operation starts: the state itself without `W`; with `W` the state after a
PARSE that ended with `ERR = 0` (40_header_unpack.md R96). -/
def BodyStart (w : Bool) (s t : State) : Prop :=
  (w = false ∧ t = s) ∨ (w = true ∧ exec .parse s = .next t ∧ t.err = .ok)

@[simp] theorem wForm_false (op : State → State) (s : State) : wForm false op s = op s := rfl

theorem wForm_true (op : State → State) (s : State) :
    wForm true op s = if (parseStep s).err = .ok then op (parseStep s) else parseStep s := rfl

/-- What a W form can do (40_header_unpack.md R96): stop with PARSE's fault, or run the body where `BodyStart` says. -/
theorem wForm_cases (w : Bool) (op : State → State) (s : State) :
    (w = true ∧ (parseStep s).err ≠ .ok ∧ wForm w op s = parseStep s) ∨
    (∃ t, BodyStart w s t ∧ wForm w op s = op t) := by
  cases w
  · exact .inr ⟨s, .inl ⟨rfl, rfl⟩, rfl⟩
  · rw [wForm_true]
    by_cases h : (parseStep s).err = .ok
    · exact .inr ⟨parseStep s, .inr ⟨rfl, rfl, h⟩, if_pos h⟩
    · exact .inl ⟨rfl, h, if_neg h⟩

/-- The body of a W form that starts at `t` is what the command does. -/
theorem wForm_of_bodyStart {w : Bool} {s t : State} (h : BodyStart w s t) (op : State → State) :
    wForm w op s = op t := by
  rcases h with ⟨rfl, rfl⟩ | ⟨rfl, hp, ht⟩
  · rfl
  · have hp : parseStep s = t := by injection hp
    rw [wForm_true, hp, if_pos ht]

theorem needHeader_of_hvalid {s : State} (h : s.hvalid = true) (op : State → State) :
    needHeader s op = op s := if_pos h

theorem needHeader_of_not_hvalid {s : State} (h : s.hvalid = false) (op : State → State) :
    needHeader s op = s.raise .headerNotLoaded := if_neg (by simp [h])

theorem needEsz_of_legal {e : BitVec 4} (h : legalEsz e) (s : State) (op : Nat → State) :
    needEsz e s op = op e.toNat := if_pos h

theorem needEsz_of_not_legal {e : BitVec 4} (h : ¬legalEsz e) (s : State) (op : Nat → State) :
    needEsz e s op = s.raise .illegalCommand := if_neg h

/-! The decode checks -/

/-- `DecodeResolve` answers exactly when every check passes, and then with the count, the offset and the span of
43_payload_decode.md R123. -/
theorem decodeResolve_eq_ok {h : Header} {sz : Nat} {r : Resolved} (hsz : 1 ≤ sz) :
    decodeResolve h sz = .ok r ↔
      Resolves h sz r.n ∧ r.off = h.kind.payloadOffset ∧ r.span = payloadSpan h sz r.n := by
  have hb := bitCountTooLarge_iff h
  obtain ⟨n, off, span⟩ := r
  unfold decodeResolve Resolves payloadSpan typedCount imageCount spanCount ceil8
  cases hk : h.kind <;>
    simp only [reduceCtorEq, false_and, true_and, if_false, if_true, hb, ne_eq] <;>
    repeat' split
  all_goals
    simp only [reduceCtorEq, false_iff, Except.ok.injEq, Resolved.mk.injEq, not_and]
    first
      | omega
      | (constructor
         · rintro ⟨rfl, rfl, rfl⟩; omega
         · rintro ⟨⟨_, _⟩, rfl, rfl⟩; subst_vars; omega)

/-! Every operation completes -/

/-- Every operation answers a next state (70_reset_and_hazards.md R166). -/
theorem exec_next (i : Instr) (s : State) : ∃ t, exec i s = .next t := by
  cases i <;> exact ⟨_, rfl⟩

end Sys2Proof.Machine
end

