-- ==== Sys2Proof/Laws/Exec.lean ====
section
/-! SUPPORT. What each operation can do, said once: every meaning is the W form of a body, and a body either raises a
fault (and changes nothing but `ERR`) or has the one effect its rule gives. -/

namespace Sys2Proof.Machine

/-- The body of each operation, what it does with `W = 0`. PARSE has none: it is the other half of a W form. -/
def bodyOf : Instr → State → State
  | .parse => parseStep
  | .isimg _ => isimgStep
  | .getw _ => accessorStep Header.width
  | .geth _ => accessorStep Header.height
  | .cntImg _ => cntImgStep
  | .cntT e _ => fun s => needEsz e s fun sz => cntTStep sz s
  | .expand e => fun s => needEsz e s fun sz => expandStep sz s
  | .decBuf e _ => fun s => needEsz e s fun sz => decBufStep sz s
  | .decFix e _ => fun s => needEsz e s fun sz => decFixStep sz s

theorem needEsz_wForm {e : BitVec 4} (h : legalEsz e) (w : Bool) (f : Nat → State → State) (s : State) :
    needEsz e s (fun sz => wForm w (f sz) s) = wForm w (fun s => needEsz e s fun sz => f sz s) s := by
  rw [needEsz_of_legal h]
  congr 1
  funext s
  rw [needEsz_of_legal h]

/-! The bodies of the sized operations at a legal and at an illegal element size -/

theorem bodyOf_cntT {e : BitVec 4} {w : Bool} {s : State} (he : legalEsz e) :
    bodyOf (.cntT e w) s = cntTStep e.toNat s := needEsz_of_legal he s fun sz => cntTStep sz s

theorem bodyOf_cntT_illegal {e : BitVec 4} {w : Bool} (he : ¬legalEsz e) (s : State) :
    bodyOf (.cntT e w) s = s.raise .illegalCommand := needEsz_of_not_legal he s fun sz => cntTStep sz s

theorem bodyOf_expand {e : BitVec 4} {s : State} (he : legalEsz e) :
    bodyOf (.expand e) s = expandStep e.toNat s := needEsz_of_legal he s fun sz => expandStep sz s

theorem bodyOf_expand_illegal {e : BitVec 4} (he : ¬legalEsz e) (s : State) :
    bodyOf (.expand e) s = s.raise .illegalCommand := needEsz_of_not_legal he s fun sz => expandStep sz s

theorem bodyOf_decBuf {e : BitVec 4} {w : Bool} {s : State} (he : legalEsz e) :
    bodyOf (.decBuf e w) s = decBufStep e.toNat s := needEsz_of_legal he s fun sz => decBufStep sz s

theorem bodyOf_decBuf_illegal {e : BitVec 4} {w : Bool} (he : ¬legalEsz e) (s : State) :
    bodyOf (.decBuf e w) s = s.raise .illegalCommand := needEsz_of_not_legal he s fun sz => decBufStep sz s

theorem bodyOf_decFix {e : BitVec 4} {w : Bool} {s : State} (he : legalEsz e) :
    bodyOf (.decFix e w) s = decFixStep e.toNat s := needEsz_of_legal he s fun sz => decFixStep sz s

theorem bodyOf_decFix_illegal {e : BitVec 4} {w : Bool} (he : ¬legalEsz e) (s : State) :
    bodyOf (.decFix e w) s = s.raise .illegalCommand := needEsz_of_not_legal he s fun sz => decFixStep sz s

/-- Every well-formed operation is the W form of its body (40_header_unpack.md R96). -/
theorem exec_eq_wForm {i : Instr} (h : i.wellFormed = true) (s : State) :
    exec i s = .next (wForm i.wBit (bodyOf i) s) := by
  cases i with
  | parse => rfl
  | isimg w => rfl
  | getw w => rfl
  | geth w => rfl
  | cntImg w => rfl
  | expand e => rfl
  | cntT e w => exact congrArg Host.Outcome.next (needEsz_wForm (of_decide_eq_true h) w cntTStep s)
  | decBuf e w => exact congrArg Host.Outcome.next (needEsz_wForm (of_decide_eq_true h) w decBufStep s)
  | decFix e w => exact congrArg Host.Outcome.next (needEsz_wForm (of_decide_eq_true h) w decFixStep s)

/-- An ill-formed operation raises `IllegalCommand` and does nothing else (assumption log 7). -/
theorem exec_ill_formed {i : Instr} (h : i.wellFormed = false) (s : State) :
    exec i s = .next (s.raise .illegalCommand) := by
  cases i with
  | parse => cases h
  | isimg w => cases h
  | getw w => cases h
  | geth w => cases h
  | cntImg w => cases h
  | expand e => exact congrArg Host.Outcome.next (needEsz_of_not_legal (of_decide_eq_false h) s _)
  | cntT e w => exact congrArg Host.Outcome.next (needEsz_of_not_legal (of_decide_eq_false h) s _)
  | decBuf e w => exact congrArg Host.Outcome.next (needEsz_of_not_legal (of_decide_eq_false h) s _)
  | decFix e w => exact congrArg Host.Outcome.next (needEsz_of_not_legal (of_decide_eq_false h) s _)

/-- What ISIMG does (R93). -/
theorem isimgStep_cases (s : State) :
    (s.hvalid = false ∧ isimgStep s = s.raise .headerNotLoaded) ∨
    (s.hvalid = true ∧ isimgStep s = s.giveResult (if s.header.kind.isImage then 1 else 0)) := by
  cases h : s.hvalid
  · exact .inl ⟨rfl, needHeader_of_not_hvalid h _⟩
  · exact .inr ⟨rfl, needHeader_of_hvalid h _⟩

/-- What GETW and GETH do (R94, R95). -/
theorem accessorStep_cases (field : Header → BitVec 16) (s : State) :
    (s.hvalid = false ∧ accessorStep field s = s.raise .headerNotLoaded) ∨
    (s.hvalid = true ∧ s.header.kind.isImage = true ∧
      accessorStep field s = s.giveResult ((field s.header).setWidth 32)) ∨
    (s.hvalid = true ∧ s.header.kind.isImage = false ∧ accessorStep field s = s.giveNoResult) := by
  cases h : s.hvalid
  · exact .inl ⟨rfl, needHeader_of_not_hvalid h _⟩
  · have e : accessorStep field s = _ := needHeader_of_hvalid h _
    cases hk : s.header.kind.isImage
    · exact .inr (.inr ⟨rfl, rfl, e.trans (if_neg (by simp [hk]))⟩)
    · exact .inr (.inl ⟨rfl, rfl, e.trans (if_pos hk)⟩)

/-- What CNT.IMG does (R101). -/
theorem cntImgStep_cases (s : State) :
    (s.hvalid = false ∧ cntImgStep s = s.raise .headerNotLoaded) ∨
    (s.hvalid = true ∧ s.header.kind = .generic ∧ cntImgStep s = s.raise .unsupportedKind) ∨
    (s.hvalid = true ∧ s.header.kind ≠ .generic ∧ cntImgStep s = s.giveCount (imageCount s.header)) := by
  cases h : s.hvalid
  · exact .inl ⟨rfl, needHeader_of_not_hvalid h _⟩
  · have e : cntImgStep s = _ := needHeader_of_hvalid h _
    by_cases hk : s.header.kind = .generic
    · exact .inr (.inl ⟨rfl, hk, e.trans (if_pos hk)⟩)
    · exact .inr (.inr ⟨rfl, hk, e.trans (if_neg hk)⟩)

/-- What CNT.T does for a legal element size (R102). -/
theorem cntTStep_cases (sz : Nat) (s : State) :
    (s.hvalid = false ∧ cntTStep sz s = s.raise .headerNotLoaded) ∨
    (s.hvalid = true ∧ s.header.kind ≠ .dualColor ∧ bitCountTooLarge s.header = true ∧
      cntTStep sz s = s.raise .bitCountRange) ∨
    (s.hvalid = true ∧ (s.header.kind ≠ .dualColor → bitCountTooLarge s.header = false) ∧
      cntTStep sz s = s.giveCount (typedCount s.header sz)) := by
  cases h : s.hvalid
  · exact .inl ⟨rfl, needHeader_of_not_hvalid h _⟩
  · have e : cntTStep sz s = _ := needHeader_of_hvalid h _
    by_cases hk : s.header.kind ≠ .dualColor ∧ bitCountTooLarge s.header = true
    · exact .inr (.inl ⟨rfl, hk.1, hk.2, e.trans (if_pos hk)⟩)
    · exact .inr (.inr ⟨rfl, fun hd => by simpa [hd] using hk, e.trans (if_neg hk)⟩)

/-- What EXPAND does for a legal element size (R112). -/
theorem expandStep_cases (sz : Nat) (s : State) :
    (s.dstCap.toNat < s.regN.toNat ∧ expandStep sz s = s.raise .bufferTooSmall) ∨
    (s.regN.toNat ≤ s.dstCap.toNat ∧ spanInSource s s.srcOff.toNat (ceil8 s.regN.toNat) = false ∧
      expandStep sz s = s.raise .sourceRange) ∨
    (s.regN.toNat ≤ s.dstCap.toNat ∧ spanInSource s s.srcOff.toNat (ceil8 s.regN.toNat) = true ∧
      expandStep sz s =
        { s.noteRead s.srcOff.toNat (ceil8 s.regN.toNat) with
          dst := expandInto s.src s.dst s.srcOff.toNat s.pal0 s.pal1 sz s.regN.toNat
          err := .ok }) := by
  unfold expandStep
  split
  · next h => exact .inl ⟨h, rfl⟩
  · next h =>
    split
    · next hs => exact .inr (.inl ⟨Nat.le_of_not_lt h, hs, rfl⟩)
    · next hs => exact .inr (.inr ⟨Nat.le_of_not_lt h, by simpa using hs, rfl⟩)

/-- What the end of a decode does (R124, R125). -/
theorem decodeDeliver_cases (s : State) (sz : Nat) (r : Resolved) :
    (spanInSource s r.off r.span = false ∧ decodeDeliver s sz r = s.raise .sourceRange) ∨
    (spanInSource s r.off r.span = true ∧
      decodeDeliver s sz r =
        { s.noteRead r.off r.span with
          dst := decodeInto s sz r, count := BitVec.ofNat 32 r.n, err := .ok }) := by
  unfold decodeDeliver
  split
  · next h => exact .inl ⟨h, rfl⟩
  · next h => exact .inr ⟨by simpa using h, rfl⟩

/-- What DEC.BUF does for a legal element size (R124). -/
theorem decBufStep_cases (sz : Nat) (s : State) :
    (s.hvalid = false ∧ decBufStep sz s = s.raise .headerNotLoaded) ∨
    (s.hvalid = true ∧ ∃ e, decodeResolve s.header sz = .error e ∧ decBufStep sz s = s.raise e) ∨
    (s.hvalid = true ∧ ∃ r, decodeResolve s.header sz = .ok r ∧
      ((s.dstCap.toNat < r.n ∧ decBufStep sz s = s.raise .bufferTooSmall) ∨
        (r.n ≤ s.dstCap.toNat ∧ decBufStep sz s = decodeDeliver s sz r))) := by
  cases h : s.hvalid
  · exact .inl ⟨rfl, needHeader_of_not_hvalid h _⟩
  · have e : decBufStep sz s = _ := needHeader_of_hvalid h _
    rw [e]
    cases hr : decodeResolve s.header sz with
    | error e => exact .inr (.inl ⟨rfl, e, rfl, rfl⟩)
    | ok r =>
      refine .inr (.inr ⟨rfl, r, rfl, ?_⟩)
      dsimp only
      split
      · next hc => exact .inl ⟨hc, rfl⟩
      · next hc => exact .inr ⟨Nat.le_of_not_lt hc, rfl⟩

/-- What DEC.FIX does for a legal element size (R125). -/
theorem decFixStep_cases (sz : Nat) (s : State) :
    (s.hvalid = false ∧ decFixStep sz s = s.raise .headerNotLoaded) ∨
    (s.hvalid = true ∧ ∃ e, decodeResolve s.header sz = .error e ∧ decFixStep sz s = s.raise e) ∨
    (s.hvalid = true ∧ ∃ r, decodeResolve s.header sz = .ok r ∧
      ((r.n = 0 ∧ decFixStep sz s = s.raise .countNotPositive) ∨
        (r.n ≠ 0 ∧ r.n ≠ s.dstCap.toNat ∧ decFixStep sz s = s.raise .capacityMismatch) ∨
        (r.n ≠ 0 ∧ r.n = s.dstCap.toNat ∧ decFixStep sz s = decodeDeliver s sz r))) := by
  cases h : s.hvalid
  · exact .inl ⟨rfl, needHeader_of_not_hvalid h _⟩
  · have e : decFixStep sz s = _ := needHeader_of_hvalid h _
    rw [e]
    cases hr : decodeResolve s.header sz with
    | error e => exact .inr (.inl ⟨rfl, e, rfl, rfl⟩)
    | ok r =>
      refine .inr (.inr ⟨rfl, r, rfl, ?_⟩)
      dsimp only
      split
      · next hc => exact .inl ⟨hc, rfl⟩
      · next hc =>
        split
        · next hd => exact .inr (.inl ⟨hc, hd, rfl⟩)
        · next hd => exact .inr (.inr ⟨hc, not_not.mp hd, rfl⟩)

/-- The errors of `DecodeResolve`, in the order of R123. -/
theorem decodeResolve_eq_error {h : Header} {sz : Nat} {e : ErrCode} (hsz : 1 ≤ sz) :
    decodeResolve h sz = .error e ↔ DecodeRaises h sz e := by
  have hb := bitCountTooLarge_iff h
  unfold decodeResolve DecodeRaises typedCount imageCount
  cases hk : h.kind <;> simp only [reduceCtorEq, false_and, true_and, if_false, if_true, hb, ne_eq] <;>
    cases e <;> simp only [forall_const, false_imp_iff, true_and] <;>
    repeat' split
  all_goals simp only [reduceCtorEq, false_iff, true_iff, Except.error.injEq]
  all_goals omega

/-- What a decode leaves in DST (R127, R128). -/
theorem read_decodeInto (s : State) {sz : Nat} {r : Resolved} (hr : decodeResolve s.header sz = .ok r)
    (hsz : 1 ≤ sz) (x : Nat) :
    Memory.read (decodeInto s sz r) x =
      if x < r.n * sz then decodedByte s.header s.src sz x else Memory.read s.dst x := by
  obtain ⟨hres, hoff, -⟩ := (decodeResolve_eq_ok hsz).mp hr
  unfold Resolves at hres
  unfold decodeInto decodedByte
  rw [hoff]
  generalize hk : s.header.kind = k at hres
  cases k
  case generic => exact read_copyInto ..
  case image => exact read_copyInto ..
  case dualColor =>
    dsimp only at hres ⊢
    rw [read_expandInto]
    have key : ∀ c : BitVec 32, byteOf (paletteEntry c) (x % sz) = c.extractLsb' (8 * (x % sz)) 8 := by
      intro c
      have hx : x % sz < sz := Nat.mod_lt _ (by omega)
      apply BitVec.eq_of_getLsbD_eq
      intro i hi
      rw [byteOf_getLsbD, paletteEntry, BitVec.getLsbD_setWidth, BitVec.getLsbD_extractLsb']
      simp [hi, show 8 * (x % sz) + i < 64 by omega]
    unfold Memory.sel selectorOfByte
    by_cases h1 : x < r.n * sz
    · rw [if_pos h1, if_pos h1, show Kind.dualColor.payloadOffset = 24 from rfl]
      split <;> exact key _
    · rw [if_neg h1, if_neg h1]

/-- What an operation without its PARSE half may leave when it succeeds: its results, its DST bytes and its reads, as
far as its row of 10_state.md R35 lists them. -/
structure BodyEffect (i : Instr) (s t : State) : Prop where
  /-- nothing but the listed results, DST, `ERR` and the read history differs -/
  rest : t = { s with srcReads := t.srcReads, dst := t.dst, count := t.count, result := t.result,
                      rvalid := t.rvalid, err := .ok }
  dst : writesDst i = false → t.dst = s.dst
  count : writesCount i = false → t.count = s.count
  result : writesResult i = false → t.result = s.result ∧ t.rvalid = s.rvalid
  noResult : writesResult i = true → t.rvalid = false → t.result = 0
  reads : ∃ new, t.srcReads = s.srcReads ++ new ∧ ∀ r ∈ new, r.addr + r.len ≤ 8 * s.srcLen.toNat

theorem reads_in_source {s : State} {a n : Nat} (h : spanInSource s a n = true) :
    ∀ r ∈ spanReads a n, r.addr + r.len ≤ 8 * s.srcLen.toNat := by
  intro r hr
  obtain ⟨h0, rfl⟩ := mem_spanReads.mp hr
  exact ((spanInSource_iff ..).mp h).resolve_left h0

theorem decodeDeliver_effect (i : Instr) (hd : writesDst i = true) (hc : writesCount i = true)
    (hr : writesResult i = false) (s : State) (sz : Nat) (r : Resolved) :
    (∃ e, e ≠ .ok ∧ decodeDeliver s sz r = s.raise e) ∨ BodyEffect i s (decodeDeliver s sz r) := by
  rcases decodeDeliver_cases s sz r with ⟨-, h⟩ | ⟨hs, h⟩
  · exact .inl ⟨_, by decide, h⟩
  · refine .inr ?_
    rw [h]
    exact ⟨rfl, by simp [hd], by simp [hc], fun _ => ⟨rfl, rfl⟩, by simp [hr], _, rfl, reads_in_source hs⟩

/-- An operation without its PARSE half either raises a fault or has an effect its row of 10_state.md R35 allows. It
never touches an operand, the header group or SRC. -/
theorem body_cases (i : Instr) (hi : i ≠ .parse) (s : State) :
    (∃ e, e ≠ .ok ∧ bodyOf i s = s.raise e) ∨ BodyEffect i s (bodyOf i s) := by
  have same : ∃ new, s.srcReads = s.srcReads ++ new ∧ ∀ r ∈ new, r.addr + r.len ≤ 8 * s.srcLen.toNat :=
    ⟨[], by simp, by simp⟩
  have none : ∀ {sz : Nat}, 1 ≤ sz → decodeResolve s.header sz ≠ .error .ok := fun hsz h =>
    (decodeResolve_eq_error hsz).mp h
  cases i with
  | parse => exact absurd rfl hi
  | isimg w =>
    rcases isimgStep_cases s with ⟨-, h⟩ | ⟨-, h⟩
    · exact .inl ⟨_, by decide, h⟩
    · refine .inr ((congrArg (BodyEffect _ s) h).mpr ?_)
      exact ⟨rfl, fun _ => rfl, fun _ => rfl, nofun, nofun, same⟩
  | getw w =>
    rcases accessorStep_cases Header.width s with ⟨-, h⟩ | ⟨-, -, h⟩ | ⟨-, -, h⟩
    · exact .inl ⟨_, by decide, h⟩
    · refine .inr ((congrArg (BodyEffect _ s) h).mpr ?_)
      exact ⟨rfl, fun _ => rfl, fun _ => rfl, nofun, nofun, same⟩
    · refine .inr ((congrArg (BodyEffect _ s) h).mpr ?_)
      exact ⟨rfl, fun _ => rfl, fun _ => rfl, nofun, fun _ _ => rfl, same⟩
  | geth w =>
    rcases accessorStep_cases Header.height s with ⟨-, h⟩ | ⟨-, -, h⟩ | ⟨-, -, h⟩
    · exact .inl ⟨_, by decide, h⟩
    · refine .inr ((congrArg (BodyEffect _ s) h).mpr ?_)
      exact ⟨rfl, fun _ => rfl, fun _ => rfl, nofun, nofun, same⟩
    · refine .inr ((congrArg (BodyEffect _ s) h).mpr ?_)
      exact ⟨rfl, fun _ => rfl, fun _ => rfl, nofun, fun _ _ => rfl, same⟩
  | cntImg w =>
    rcases cntImgStep_cases s with ⟨-, h⟩ | ⟨-, -, h⟩ | ⟨-, -, h⟩
    · exact .inl ⟨_, by decide, h⟩
    · exact .inl ⟨_, by decide, h⟩
    · refine .inr ((congrArg (BodyEffect _ s) h).mpr ?_)
      exact ⟨rfl, fun _ => rfl, nofun, fun _ => ⟨rfl, rfl⟩, nofun, same⟩
  | cntT e w =>
    by_cases he : legalEsz e
    · rw [bodyOf_cntT he]
      rcases cntTStep_cases e.toNat s with ⟨-, h⟩ | ⟨-, -, -, h⟩ | ⟨-, -, h⟩
      · exact .inl ⟨_, by decide, h⟩
      · exact .inl ⟨_, by decide, h⟩
      · refine .inr ((congrArg (BodyEffect _ s) h).mpr ?_)
        exact ⟨rfl, fun _ => rfl, nofun, fun _ => ⟨rfl, rfl⟩, nofun, same⟩
    · exact .inl ⟨_, by decide, bodyOf_cntT_illegal he ..⟩
  | expand e =>
    by_cases he : legalEsz e
    · rw [bodyOf_expand he]
      rcases expandStep_cases e.toNat s with ⟨-, h⟩ | ⟨-, -, h⟩ | ⟨-, hs, h⟩
      · exact .inl ⟨_, by decide, h⟩
      · exact .inl ⟨_, by decide, h⟩
      · refine .inr ((congrArg (BodyEffect _ s) h).mpr ?_)
        exact ⟨rfl, nofun, fun _ => rfl, fun _ => ⟨rfl, rfl⟩, nofun, _, rfl, reads_in_source hs⟩
    · exact .inl ⟨_, by decide, bodyOf_expand_illegal he ..⟩
  | decBuf e w =>
    by_cases he : legalEsz e
    · rw [bodyOf_decBuf he]
      rcases decBufStep_cases e.toNat s with ⟨-, h⟩ | ⟨-, c, hc, h⟩ | ⟨-, r, -, ⟨-, h⟩ | ⟨-, h⟩⟩
      · exact .inl ⟨_, by decide, h⟩
      · exact .inl ⟨c, by rintro rfl; exact none he.1 hc, h⟩
      · exact .inl ⟨_, by decide, h⟩
      · rw [h]; exact decodeDeliver_effect _ rfl rfl rfl ..
    · exact .inl ⟨_, by decide, bodyOf_decBuf_illegal he ..⟩
  | decFix e w =>
    by_cases he : legalEsz e
    · rw [bodyOf_decFix he]
      rcases decFixStep_cases e.toNat s with ⟨-, h⟩ | ⟨-, c, hc, h⟩ | ⟨-, r, -, ⟨-, h⟩ | ⟨-, -, h⟩ | ⟨-, -, h⟩⟩
      · exact .inl ⟨_, by decide, h⟩
      · exact .inl ⟨c, by rintro rfl; exact none he.1 hc, h⟩
      · exact .inl ⟨_, by decide, h⟩
      · exact .inl ⟨_, by decide, h⟩
      · rw [h]; exact decodeDeliver_effect _ rfl rfl rfl ..
    · exact .inl ⟨_, by decide, bodyOf_decFix_illegal he ..⟩

/-- An operation without its PARSE half keeps every operand, the header group, SRC and the host's records. -/
theorem body_keeps (i : Instr) (hi : i ≠ .parse) (s : State) :
    (bodyOf i s).srcLen = s.srcLen ∧ (bodyOf i s).srcOff = s.srcOff ∧ (bodyOf i s).regN = s.regN ∧
    (bodyOf i s).pal0 = s.pal0 ∧ (bodyOf i s).pal1 = s.pal1 ∧ (bodyOf i s).dstCap = s.dstCap ∧
    (bodyOf i s).src = s.src ∧ (bodyOf i s).readings = s.readings ∧ (bodyOf i s).moves = s.moves ∧
    (bodyOf i s).header = s.header ∧ (bodyOf i s).hvalid = s.hvalid ∧ (bodyOf i s).dimv = s.dimv ∧
    (bodyOf i s).palv = s.palv := by
  rcases body_cases i hi s with ⟨e, -, h⟩ | ⟨h, -⟩ <;> rw [h] <;> simp

/-- Where a body starts: at the state itself, or after a PARSE that ended with `ERR = 0`. -/
theorem bodyStart_cases {w : Bool} {s p : State} (h : BodyStart w s p) :
    (w = false ∧ p = s) ∨ (w = true ∧ p = parseStep s ∧ p.err = .ok) := by
  rcases h with ⟨hw, h⟩ | ⟨hw, h, he⟩
  · exact .inl ⟨hw, h⟩
  · injection h with h
    exact .inr ⟨hw, h.symm, he⟩

/-- What any operation can do: raise `IllegalCommand` on an ill-formed term, be PARSE, stop in the PARSE half of a W
form, or run its body where the body starts. -/
theorem exec_cases {i : Instr} {s t : State} (h : exec i s = .next t) :
    (i.wellFormed = false ∧ t = s.raise .illegalCommand) ∨
    (i = .parse ∧ t = parseStep s) ∨
    (i ≠ .parse ∧ i.wellFormed = true ∧ i.wBit = true ∧ (parseStep s).err ≠ .ok ∧ t = parseStep s) ∨
    (i ≠ .parse ∧ i.wellFormed = true ∧ ∃ p, BodyStart i.wBit s p ∧ t = bodyOf i p) := by
  cases hw : i.wellFormed
  · rw [exec_ill_formed hw] at h
    injection h with h
    exact .inl ⟨rfl, h.symm⟩
  · rw [exec_eq_wForm hw] at h
    injection h with h
    by_cases hp : i = .parse
    · subst hp
      exact .inr (.inl ⟨rfl, h.symm⟩)
    · rcases wForm_cases i.wBit (bodyOf i) s with ⟨h1, h2, h3⟩ | ⟨p, h1, h2⟩
      · exact .inr (.inr (.inl ⟨hp, rfl, h1, h2, by rw [← h, h3]⟩))
      · exact .inr (.inr (.inr ⟨hp, rfl, p, h1, by rw [← h, h2]⟩))

/-- One step takes the next move of the host off the list and performs it. -/
theorem step_cons {s : State} {mv : HostMove} {rest : List HostMove} (h : s.moves = mv :: rest) :
    step s = performMove mv { s with moves := rest } := by
  unfold step nextMove
  rw [h]

/-- With no move waiting, nothing happens. -/
theorem step_nil {s : State} (h : s.moves = []) : step s = .next s := by
  unfold step nextMove
  rw [h]

end Sys2Proof.Machine
end

