-- ==== Sys2Proof/Laws/PerInstr.lean ====
section
/-! SUPPORT. Facts about every operation as syntax, one lemma per constructor of `Instr` (LAWS.json). -/

namespace Sys2Proof

/-- The encoding of a well-formed operation is a legal command of its own row of the opcode map (30_encoding.md R74,
R78). -/
def Laws.RowSelected.Statement (i : Instr) : Prop :=
  i.wellFormed = true → ∃ r ∈ opcodeMap, r.mnemonic = i.mnemonic ∧ r.accepts (encode i)

theorem Laws.RowSelected.parse : Laws.RowSelected.Statement .parse := by
  unfold Laws.RowSelected.Statement; decide

theorem Laws.RowSelected.isimg (w : Bool) : Laws.RowSelected.Statement (.isimg w) := by
  unfold Laws.RowSelected.Statement; revert w; decide

theorem Laws.RowSelected.getw (w : Bool) : Laws.RowSelected.Statement (.getw w) := by
  unfold Laws.RowSelected.Statement; revert w; decide

theorem Laws.RowSelected.geth (w : Bool) : Laws.RowSelected.Statement (.geth w) := by
  unfold Laws.RowSelected.Statement; revert w; decide

theorem Laws.RowSelected.cntImg (w : Bool) : Laws.RowSelected.Statement (.cntImg w) := by
  unfold Laws.RowSelected.Statement; revert w; decide

theorem Laws.RowSelected.cntT (esz : BitVec 4) (w : Bool) : Laws.RowSelected.Statement (.cntT esz w) := by
  unfold Laws.RowSelected.Statement; revert esz w; decide

theorem Laws.RowSelected.expand (esz : BitVec 4) : Laws.RowSelected.Statement (.expand esz) := by
  unfold Laws.RowSelected.Statement; revert esz; decide

theorem Laws.RowSelected.decBuf (esz : BitVec 4) (w : Bool) : Laws.RowSelected.Statement (.decBuf esz w) := by
  unfold Laws.RowSelected.Statement; revert esz w; decide

theorem Laws.RowSelected.decFix (esz : BitVec 4) (w : Bool) : Laws.RowSelected.Statement (.decFix esz w) := by
  unfold Laws.RowSelected.Statement; revert esz w; decide

end Sys2Proof
end

