-- ==== Sys2Proof/Tests/Slice0.lean ====
section
/-! SUPPORT. Tests with expected results from the spec's encodings and vectors (30_encoding.md, 95_test_vectors.md),
and for every statement with hypotheses a witness that meets them. -/

namespace Sys2Proof.Tests
open Sys2Proof Sys2Proof.Machine

/-! Well-formed terms: the check refuses an element size of 0 and of 9 (30_encoding.md R75) -/

theorem test_wf_refuses_cntT_0 : (Instr.cntT 0 false).wellFormed = false := by decide
theorem test_wf_refuses_cntT_9 : (Instr.cntT 9 true).wellFormed = false := by decide
theorem test_wf_refuses_expand_0 : (Instr.expand 0).wellFormed = false := by decide
theorem test_wf_refuses_expand_9 : (Instr.expand 9).wellFormed = false := by decide
theorem test_wf_refuses_decBuf_0 : (Instr.decBuf 0 true).wellFormed = false := by decide
theorem test_wf_refuses_decBuf_9 : (Instr.decBuf 9 false).wellFormed = false := by decide
theorem test_wf_refuses_decFix_0 : (Instr.decFix 0 false).wellFormed = false := by decide
theorem test_wf_refuses_decFix_15 : (Instr.decFix 15 false).wellFormed = false := by decide

/-! Decoding: words written out from the fields of 30_encoding.md R73 and R74, or given in 95_test_vectors.md -/

theorem test_decode_parse : decode 0b00000000000000000000000_0_0000_0001 = .ok .parse := by decide
theorem test_decode_isimg : decode 0b00000000000000000000000_0_0000_0010 = .ok (.isimg false) := by decide
theorem test_decode_isimg_w : decode 0x00000102 = .ok (.isimg true) := by decide
theorem test_decode_getw : decode 0b00000000000000000000000_1_0000_0011 = .ok (.getw true) := by decide
theorem test_decode_geth : decode 0b00000000000000000000000_0_0000_0100 = .ok (.geth false) := by decide
theorem test_decode_geth_w : decode 0b00000000000000000000000_1_0000_0100 = .ok (.geth true) := by decide
theorem test_decode_cntImg : decode 0b00000000000000000000000_0_0000_0101 = .ok (.cntImg false) := by decide
theorem test_decode_cntT : decode 0b00000000000000000000000_0_0100_0110 = .ok (.cntT 4 false) := by decide
theorem test_decode_cntT_w : decode 0x00000126 = .ok (.cntT 2 true) := by decide
theorem test_decode_expand : decode 0b00000000000000000000000_0_0011_0111 = .ok (.expand 3) := by decide
theorem test_decode_decBuf : decode 0b00000000000000000000000_1_0010_1000 = .ok (.decBuf 2 true) := by decide
theorem test_decode_decFix : decode 0b00000000000000000000000_0_0011_1001 = .ok (.decFix 3 false) := by decide
/-- V65 -/
theorem test_decode_sizes_of_8 :
    decode 0x86 = .ok (.cntT 8 false) ∧ decode 0x87 = .ok (.expand 8) ∧ decode 0x88 = .ok (.decBuf 8 false) ∧
    decode 0x89 = .ok (.decFix 8 false) := by decide
/-- V58, V59 -/
theorem test_decode_no_such_operation :
    decode 0x0 = .error .noSuchOperation ∧ decode 0xA = .error .noSuchOperation ∧
    decode 0xB = .error .noSuchOperation ∧ decode 0xC = .error .noSuchOperation ∧
    decode 0xD = .error .noSuchOperation ∧ decode 0xE = .error .noSuchOperation ∧
    decode 0xF = .error .noSuchOperation := by decide
/-- V60, V63 -/
theorem test_decode_size_not_zero :
    decode 0x11 = .error .elementSizeNotZero ∧ decode 0x12 = .error .elementSizeNotZero ∧
    decode 0x15 = .error .elementSizeNotZero := by decide
/-- V30, V38, V64 -/
theorem test_decode_size_out_of_range :
    decode 0x06 = .error .elementSizeOutOfRange ∧ decode 0x96 = .error .elementSizeOutOfRange ∧
    decode 0x07 = .error .elementSizeOutOfRange ∧ decode 0x98 = .error .elementSizeOutOfRange ∧
    decode 0xF9 = .error .elementSizeOutOfRange := by decide
/-- V61, and EXPAND with `W` on a legal size -/
theorem test_decode_no_w :
    decode 0x101 = .error .wordsFirstNotAllowed ∧ decode 0x117 = .error .wordsFirstNotAllowed := by decide
/-- V38: `0x107` breaks two rules at once -/
theorem test_decode_expand_w_size_0 : decode 0x107 = .error .wordsFirstNotAllowed := by decide
/-- V62 -/
theorem test_decode_reserved_bits :
    decode 0x200 = .error .reservedBits ∧ decode 0x80000001 = .error .reservedBits := by decide

/-- The host's question, for a row's own bits. -/
theorem test_decodeTableWord : decodeTableWord 32 0x139 = some (.decFix 3 true) := by decide

/-! States -/

/-- A unit after reset with a word sequence in SRC. -/
def unit (words : List SrcWord) (srcLen dstCap : BitVec 32) : State :=
  { State.reset with src := Memory.loadWords [] 0 words, srcLen := srcLen, dstCap := dstCap }

/-- The same unit with a header loaded. -/
def State.load (s : State) (h : Header) : State := s.commitHeader h

/-- The state after an operation. -/
def after (i : Instr) (s : State) : State :=
  match exec i s with
  | .next t => t
  | .fault _ => s
  | .refused _ => s

theorem exec_after (i : Instr) (s : State) : exec i s = .next (after i s) := by cases i <;> rfl

/-- The first bytes of DST. -/
def dstBytes (s : State) (n : Nat) : List Byte := (List.range n).map (Memory.read s.dst)

/-- V1: a Generic sequence of 44 bits. -/
def generic : State := unit [0x0000002C00000000, 0x00000F55EFBEADDE] 2 2
/-- V2, S2: an Image sequence. -/
def image : State := unit [0x0000003000000301, 0x0000000000010002, 0x0000605040302010] 3 2
/-- V3: a DualColorImage sequence. -/
def dual : State := unit [0x0000000800000202, 0x0000000000020004, 0xCCDD4433AABB2211, 0x00000000000000B0] 4 8
/-- V31: an expansion. -/
def plane : State :=
  { unit [0x000000C0A5000000] 1 10 with srcOff := 3, regN := 10, pal0 := 0x01, pal1 := 0xFE }

/-- The headers of V1, V2, V3. -/
def headerV1 : Header := { Header.zero with bitCount := 44 }
def headerV2 : Header := { Header.zero with kind := .image, bpp := 3, bitCount := 48, width := 2, height := 1 }
def headerV3 : Header := ⟨.dualColor, 2, 8, 4, 2, 0xAABB2211, 0xCCDD4433⟩

/-- The three sequences parsed. -/
def genericP : State := State.load generic headerV1
def imageP : State := State.load image headerV2
def dualP : State := State.load dual headerV3

/-! One operation -/

/-- V3 -/
theorem test_parse_dual :
    let t := after .parse dual
    (t.header, t.status, t.srcReads) = (headerV3, 0x700, [⟨0, 8⟩, ⟨8, 8⟩, ⟨16, 8⟩]) := by decide
/-- V9 -/
theorem test_parse_no_word_2 :
    let t := after .parse (unit [0x0000000800000202, 0x0000000000020004] 2 0)
    (t.header, t.status, t.srcReads) = (Header.zero, 3, [⟨0, 8⟩, ⟨8, 8⟩]) := by decide
/-- V11 -/
theorem test_isimg_generic :
    ((after (.isimg false) genericP).result, (after (.isimg false) genericP).status) = (0, 0x900) := by decide
/-- V17 -/
theorem test_isimg_w_fault : (after (.isimg true) (unit [0x0000003000000301] 1 0)).status = 3 := by decide
/-- V14 -/
theorem test_getw_generic :
    ((after (.getw false) genericP).result, (after (.getw false) genericP).status) = (0, 0x100) := by decide
/-- V15 -/
theorem test_getw_wide :
    (after (.getw true) (unit [0xFFFFFFFFBEEF0401, 0xDEADBEEFABCD1234] 2 0)).result = 0x1234 := by decide
/-- V13 -/
theorem test_geth : ((after (.geth false) imageP).result, (after (.geth false) imageP).rvalid) = (1, true) := by decide
/-- V15 -/
theorem test_geth_wide :
    (after (.geth true) (unit [0xFFFFFFFFBEEF0401, 0xDEADBEEFABCD1234] 2 0)).result = 0xABCD := by decide
/-- V26 -/
theorem test_cntImg_largest :
    (after (.cntImg false) (State.load image { headerV2 with width := 65535, height := 65535 })).count = 0xFFFE0001 := by
  decide
/-- V23 -/
theorem test_cntImg_generic :
    ((after (.cntImg false) genericP).err, (after (.cntImg false) genericP).count) = (.unsupportedKind, 0) := by decide
/-- V22, and S4's last quotients -/
theorem test_cntT_generic :
    (after (.cntT 2 false) genericP).count = 2 ∧
    (after (.cntT 8 false) (State.load generic { headerV1 with bitCount := 2147483647 })).count = 33554431 := by decide
/-- V25 and V28 -/
theorem test_cntT_bit_count :
    (after (.cntT 2 false) (State.load dual { headerV3 with bitCount := 9 })).count = 8 ∧
    (after (.cntT 1 false) (State.load generic { headerV1 with bitCount := 2147483648 })).err = .bitCountRange := by decide
/-- V31 -/
theorem test_expand_unaligned :
    dstBytes (after (.expand 1) plane) 11 = [0xFE, 1, 0xFE, 1, 1, 0xFE, 1, 0xFE, 0xFE, 0xFE, 0] ∧
    (after (.expand 1) plane).srcReads = [⟨3, 2⟩] := by decide
/-- V32 -/
theorem test_expand_three_bytes :
    dstBytes (after (.expand 3) { unit [0x40] 1 3 with regN := 3, pal0 := 0xFF030201, pal1 := 0xFF0C0B0A }) 10
      = [1, 2, 3, 0xA, 0xB, 0xC, 1, 2, 3, 0] := by decide
/-- V40 -/
theorem test_decBuf_generic :
    let t := after (.decBuf 2 true) generic
    (dstBytes t 5, t.count, t.status, t.srcReads)
      = ([0xDE, 0xAD, 0xBE, 0xEF, 0], 2, 0x100, [⟨0, 8⟩, ⟨8, 4⟩]) := by decide
/-- V47 -/
theorem test_decBuf_dual :
    dstBytes (after (.decBuf 2 false) dualP) 17
      = [0x33, 0x44, 0x11, 0x22, 0x33, 0x44, 0x33, 0x44, 0x11, 0x22, 0x11, 0x22, 0x11, 0x22, 0x11, 0x22, 0] := by decide
/-- S2, V44 -/
theorem test_decFix_image :
    let t := after (.decFix 3 true) image
    (t.header, t.count, dstBytes t 7, t.status)
      = (headerV2, 2, [0x10, 0x20, 0x30, 0x40, 0x50, 0x60, 0], 0x300) := by decide
/-- V45 and S5's fixed capacity of an empty sequence -/
theorem test_decFix_counts :
    (after (.decFix 1 true) image).err = .capacityMismatch ∧ (after (.decFix 1 true) (unit [0] 1 0)).err = .countNotPositive := by
  decide

/-! Witnesses: for each statement with hypotheses, concrete values that meet them, clause by clause at the boundary
values. The name after `witness_` is the statement's. -/

/-- A state with host moves waiting. -/
def waiting (mv : HostMove) : State := { dualP with moves := [mv, .readReg 16] }

theorem witness_DecodeOfEncodeIsTheOperation :
    Instr.parse.wellFormed = true ∧ (Instr.cntT 1 false).wellFormed = true ∧ (Instr.decFix 8 true).wellFormed = true := by
  decide
theorem witness_EncodeOfDecodeIsTheCommand :
    decode 0x00000001 = .ok .parse ∧ decode 0x00000189 = .ok (.decFix 8 true) := by decide
theorem witness_LegalCommandsAreTheOpcodeMap :
    (⟨"DEC.FIX", 0x00000009, 0xFFFFFE0F, true⟩ ∈ opcodeMap ∧
      (⟨"DEC.FIX", 0x00000009, 0xFFFFFE0F, true⟩ : OpcodeRow).selectedBy 0x00000199) ∧
    decode 0x00000189 = .ok (.decFix 8 true) ∧ ¬∃ i, decode 0x00000199 = .ok i := by
  refine ⟨by decide, by decide, ?_⟩
  rintro ⟨i, h⟩
  rw [show decode 0x00000199 = .error .elementSizeOutOfRange by decide] at h
  cases h

theorem witness_CommandPortRunsTheDecodedOperation :
    (waiting (.writeReg 31 0xFFFFFFFF00000128)).moves = .writeReg 31 0xFFFFFFFF00000128 :: [.readReg 16] ∧
    decode ((0xFFFFFFFF00000128 : BitVec 64).setWidth 32) = .ok (.decBuf 2 true) ∧
    (waiting (.writeReg 31 0)).moves = .writeReg 31 0 :: [.readReg 16] ∧
    ¬∃ i, decode ((0 : BitVec 64).setWidth 32) = .ok i := by
  refine ⟨rfl, by decide, rfl, ?_⟩
  rintro ⟨i, h⟩
  rw [show decode ((0 : BitVec 64).setWidth 32) = .error .noSuchOperation by decide] at h
  cases h
theorem witness_CommandWriteIssuesTheOperation :
    (waiting (issueMove 0x128)).moves = issueMove 0x128 :: [.readReg 16] ∧ decode 0x128 = .ok (.decBuf 2 true) ∧
    (waiting (issueMove 0)).moves = issueMove 0 :: [.readReg 16] ∧ ¬∃ i, decode 0 = .ok i := by
  refine ⟨rfl, by decide, rfl, ?_⟩
  rintro ⟨i, h⟩
  rw [show decode 0 = .error .noSuchOperation by decide] at h
  cases h
/-- R49 on V3's words, and its one hypothesis, met by the bytes themselves. -/
theorem witness_MixedWidthViewsAgree :
    (∀ a, (fun x => (Memory.read dual.src x).toNat) a = (Memory.read dual.src a).toNat) ∧
    headerOfBytes .dualColor dual.src = headerV3 := ⟨fun _ => rfl, by decide⟩
theorem witness_PlacedCommandIsTheNextToRun :
    0x189 < 2 ^ 32 ∧ decode (BitVec.ofNat 32 0x189) = .ok (.decFix 8 true) := by decide
theorem witness_IdleUnitKeepsItsState : dualP.moves = [] := by decide
theorem witness_MovesInContractComplete :
    (waiting (.readDst (2 ^ 35 - 1))).moves = .readDst (2 ^ 35 - 1) :: [.readReg 16] ∧
    (HostMove.readDst (2 ^ 35 - 1)).inContract = true ∧ (HostMove.writeReg 31 0).inContract = true ∧
    (HostMove.supplySrc []).inContract = true ∧ (HostMove.readDst (2 ^ 35)).inContract = false ∧
    (HostMove.breach .resetInFlight).inContract = false := by decide
theorem witness_MovesOutsideTheContractStopByName :
    (waiting (.readDst (2 ^ 35))).moves = .readDst (2 ^ 35) :: [.readReg 16] ∧
    (waiting (.writeDst (2 ^ 35) 1)).moves = .writeDst (2 ^ 35) 1 :: [.readReg 16] ∧
    (waiting (.breach .storageOverlap)).moves = .breach .storageOverlap :: [.readReg 16] := by decide
/-- The third clause: the shortest word sequence that does not fit. -/
theorem witness_MovesOutsideTheContractStopByName_supply :
    2 ^ 35 < 8 * (List.replicate (2 ^ 32 + 1) (0 : SrcWord)).length ∧
    (waiting (.supplySrc (List.replicate (2 ^ 32 + 1) 0))).moves
      = .supplySrc (List.replicate (2 ^ 32 + 1) 0) :: [.readReg 16] :=
  ⟨by rw [List.length_replicate]; decide, rfl⟩

theorem witness_RegistersReadAtTheirNumbers :
    (31#5).toNat ∈ [6, 7, 15, 31] ∧ 19 ≤ (19#5).toNat ∧ (30#5).toNat ≤ 30 := by decide
theorem witness_HostRegisterAccesses :
    (waiting (.writeReg 5 0x100000007)).moves = .writeReg 5 0x100000007 :: [.readReg 16] ∧ (5 : BitVec 5) ≠ 31 ∧
    (waiting (.writeReg 30 1)).moves = .writeReg 30 1 :: [.readReg 16] ∧ (30 : BitVec 5) ≠ 31 ∧
    (waiting (.readReg 18)).moves = .readReg 18 :: [.readReg 16] ∧ (31#5).toNat ∈ [6, 7, 15, 31] := by decide
theorem witness_StatusWordLayout : (5 ≤ 5 ∧ 7 ≤ 7) ∧ 12 ≤ 12 ∧ 12 ≤ 31 := by decide
theorem witness_HostReadsOfDestination :
    2 ^ 35 - 1 < 2 ^ 35 ∧ (waiting (.readDst (2 ^ 35 - 1))).moves = .readDst (2 ^ 35 - 1) :: [.readReg 16] := by decide
theorem witness_HostWritesOfDestination :
    2 ^ 35 - 1 < 2 ^ 35 ∧
    (waiting (.writeDst (2 ^ 35 - 1) 0xEE)).moves = .writeDst (2 ^ 35 - 1) 0xEE :: [.readReg 16] := by decide
theorem witness_SuppliedSourceReadsBack :
    8 * [0x0807060504030201, (7 : SrcWord)].length ≤ 2 ^ 35 ∧
    (waiting (.supplySrc [0x0807060504030201, 7])).moves = .supplySrc [0x0807060504030201, 7] :: [.readReg 16] ∧
    [0x0807060504030201, (7 : SrcWord)][1]? = some 7 ∧ 7 < 8 ∧
    8 * [0x0807060504030201, (7 : SrcWord)].length ≤ 16 := by decide
theorem witness_ResetClearsEveryRegister :
    (waiting .resetUnit).moves = .resetUnit :: [.readReg 16] ∧ (waiting .resetUnit).hvalid = true := by decide

theorem witness_StepKeepsTheInvariant :
    (dualP.withFetchWord 32 0x28).Inv ∧ step (dualP.withFetchWord 32 0x28) = .next (after (.decBuf 2 false) dualP) :=
  ⟨by decide, rfl⟩
theorem witness_HeaderStaysValidUntilReset :
    exec (.isimg true) dualP = .next (after (.isimg true) dualP) ∧ dualP.hvalid = true ∧
    step (dualP.withFetchWord 32 0) = .next (dualP.raise .illegalCommand) ∧
    (dualP.withFetchWord 32 0).moves.head? ≠ some .resetUnit :=
  ⟨rfl, by decide, rfl, by decide⟩

theorem witness_ParseUnpacksTheHeader :
    State.reset.srcLen = 0 ∧
    (1 ≤ (unit [3] 1 0).srcLen.toNat ∧ 3 ≤ (Memory.read (unit [3] 1 0).src 0).toNat) ∧
    ((unit [1] 1 0).srcLen = 1 ∧ Memory.read (unit [1] 1 0).src 0 = 1) ∧
    ((unit [2] 1 0).srcLen = 1 ∧ Memory.read (unit [2] 1 0).src 0 = 2) ∧
    ((unit [2, 5] 2 0).srcLen = 2 ∧ Memory.read (unit [2, 5] 2 0).src 0 = 2) ∧
    (1 ≤ (unit [0x100] 1 0).srcLen.toNat ∧ Memory.read (unit [0x100] 1 0).src 0 = 0) ∧
    (2 ≤ (unit [1, 5] 2 0).srcLen.toNat ∧ Memory.read (unit [1, 5] 2 0).src 0 = 1) ∧
    (3 ≤ (unit [2, 5, 6] 3 0).srcLen.toNat ∧ Memory.read (unit [2, 5, 6] 3 0).src 0 = 2) := by decide
theorem witness_ParseIgnoresPadding :
    15 ∈ [2, 3, 12, 13, 14, 15] ∧ exec .parse image = .next (after .parse image) := ⟨by decide, rfl⟩
theorem witness_UnpackingIsInjective :
    exec .parse dual = .next (after .parse dual) ∧ exec .parse image = .next (after .parse image) ∧
    (after .parse dual).err = .ok ∧ (after .parse image).err = .ok ∧
    (after .parse dual).header.kind = .dualColor ∧ (after .parse image).header.kind ≠ .generic :=
  ⟨rfl, rfl, by decide, by decide, by decide, by decide⟩
theorem witness_WFormIsParseThenOperation :
    (Instr.decFix 8 true).wellFormed = true ∧ (Instr.decFix 8 true).wBit = true ∧
    exec .parse dual = .next (after .parse dual) ∧ (after .parse dual).err = .ok ∧
    exec .parse State.reset = .next (after .parse State.reset) ∧ (after .parse State.reset).err ≠ .ok :=
  ⟨by decide, by decide, rfl, by decide, rfl, by decide⟩

theorem witness_IsimgAnswersTheKind :
    genericP.hvalid = true ∧ State.reset.hvalid = false ∧ exec .parse generic = .next (after .parse generic) :=
  ⟨by decide, by decide, rfl⟩
theorem witness_GetwAnswersTheWidth :
    (imageP.hvalid = true ∧ imageP.header.kind ≠ .generic) ∧ (dualP.hvalid = true ∧ dualP.header.kind ≠ .generic) ∧
    (genericP.hvalid = true ∧ genericP.header.kind = .generic) ∧ State.reset.hvalid = false := by decide
theorem witness_GethAnswersTheHeight :
    (imageP.hvalid = true ∧ imageP.header.kind ≠ .generic) ∧
    (genericP.hvalid = true ∧ genericP.header.kind = .generic) ∧ State.reset.hvalid = false := by decide
theorem witness_CntImgResolvesTheProduct :
    (dualP.hvalid = true ∧ dualP.header.kind ≠ .generic) ∧ (genericP.hvalid = true ∧ genericP.header.kind = .generic) ∧
    State.reset.hvalid = false := by decide
theorem witness_CntTResolvesTheTypedCount :
    legalEsz 1 ∧ legalEsz 8 ∧ (dualP.hvalid = true ∧ dualP.header.kind = .dualColor) ∧
    (let s := State.load image { headerV2 with bitCount := 0x7FFFFFFF };
      s.hvalid = true ∧ s.header.kind ≠ .dualColor ∧ s.header.bitCount.toNat < 2 ^ 31) ∧
    (let s := State.load generic { headerV1 with bitCount := 0x80000000 };
      s.hvalid = true ∧ s.header.kind ≠ .dualColor ∧ 2 ^ 31 ≤ s.header.bitCount.toNat) ∧
    State.reset.hvalid = false := by decide
theorem witness_CountsAgreeOnPackedImages :
    (legalEsz 3 ∧ imageP.hvalid = true ∧ imageP.header.kind = .image ∧ imageP.header.bpp.toNat = (3#4).toNat ∧
      imageP.header.bitCount.toNat < 2 ^ 31 ∧
      imageP.header.bitCount.toNat
        = 8 * imageP.header.width.toNat * imageP.header.height.toNat * imageP.header.bpp.toNat) ∧
    exec (.cntT 3 false) imageP = .next (after (.cntT 3 false) imageP) ∧
    exec (.cntImg false) imageP = .next (after (.cntImg false) imageP) ∧
    exec (.cntT 1 false) imageP = .next (after (.cntT 1 false) imageP) :=
  ⟨by decide, rfl, rfl, rfl⟩

/-- V34 to V37: one element too many, one byte too many, the last legal span, and the empty one. -/
theorem witness_ExpandReconstructsThePlane :
    (let s := { plane with regN := 11 };
      legalEsz 1 ∧ 11 = s.regN.toNat ∧ 3 = s.srcOff.toNat ∧ 1 = (1#4).toNat ∧ s.dstCap.toNat < 11) ∧
    (let s := { plane with regN := 41, dstCap := 41 };
      legalEsz 1 ∧ 41 = s.regN.toNat ∧ 3 = s.srcOff.toNat ∧ 41 ≤ s.dstCap.toNat ∧ 0 < 41 ∧
        8 * s.srcLen.toNat < 3 + (41 + 7) / 8) ∧
    (let s := { plane with regN := 40, dstCap := 40 };
      legalEsz 8 ∧ 40 = s.regN.toNat ∧ 3 = s.srcOff.toNat ∧ 40 ≤ s.dstCap.toNat ∧
        3 + (40 + 7) / 8 ≤ 8 * s.srcLen.toNat) ∧
    (let s := { plane with regN := 0, srcOff := 999, dstCap := 0 };
      legalEsz 8 ∧ 0 = s.regN.toNat ∧ 999 = s.srcOff.toNat ∧ 0 ≤ s.dstCap.toNat) := by decide
/-- Of V31's plane bytes `A5 C0` the low six bits of the second do not matter. -/
theorem witness_ExpandIgnoresUnusedBits :
    10 = plane.regN.toNat ∧ 3 = plane.srcOff.toNat ∧
    (∀ k, k < 10 / 8 → Memory.read (Memory.write plane.src 4 0xFF) (3 + k) = Memory.read plane.src (3 + k)) ∧
    (∀ j, 8 - 10 % 8 ≤ j → j < 8 →
      (Memory.read (Memory.write plane.src 4 0xFF) (3 + 10 / 8)).getLsbD j
        = (Memory.read plane.src (3 + 10 / 8)).getLsbD j) ∧
    exec (.expand 1) plane = .next (after (.expand 1) plane) := by
  refine ⟨by decide, by decide, ?_, ?_, rfl⟩
  · intro k hk
    obtain rfl : k = 0 := by omega
    decide
  · intro j h1 h2
    have h : j = 6 ∨ j = 7 := by omega
    rcases h with rfl | rfl <;> decide

/-- The counts that V1, V2 and V3 resolve to, and the empty ones of S5. -/
theorem witness_Resolves :
    Resolves headerV1 2 2 ∧ Resolves headerV2 3 2 ∧ Resolves headerV3 2 8 ∧ Resolves Header.zero 1 0 ∧
    Resolves { headerV3 with bpp := 4, bitCount := 0, width := 0 } 4 0 := by
  simp [Resolves, headerV1, headerV2, headerV3, Header.zero]
/-- V53, V54, V55: each check fails for some header. -/
theorem witness_DecodeRaises :
    DecodeRaises headerV3 4 .typeMismatch ∧ DecodeRaises { headerV3 with bpp := 5 } 5 .bppRange ∧
    DecodeRaises { headerV1 with bitCount := 0x80000000 } 1 .bitCountRange ∧
    DecodeRaises { headerV3 with bitCount := 9 } 2 .planeMismatch := by
  simp [DecodeRaises, headerV1, headerV3, Header.zero]

theorem witness_DecBufDecodesThePayload :
    legalEsz 1 ∧ legalEsz 8 ∧ State.reset.hvalid = false ∧
    (dualP.hvalid = true ∧ DecodeRaises dualP.header (4#4).toNat .typeMismatch) :=
  ⟨by decide, by decide, by decide, by decide, witness_DecodeRaises.1⟩
/-- Count 2 against capacity 1; 4 payload bytes from byte 8 against one word and against two. -/
theorem witness_DecBufDecodesThePayload_count :
    genericP.hvalid = true ∧ Resolves genericP.header (2#4).toNat 2 ∧ 8 = payloadStart genericP.header ∧
    4 = payloadSpan genericP.header (2#4).toNat 2 ∧ (State.dstCap { genericP with dstCap := 1 }).toNat < 2 ∧
    (2 ≤ genericP.dstCap.toNat ∧ 0 < 4 ∧ 8 * (State.srcLen { genericP with srcLen := 1 }).toNat < 8 + 4) ∧
    8 + 4 ≤ 8 * genericP.srcLen.toNat :=
  ⟨by decide, witness_Resolves.1, by decide, by decide, by decide, by decide, by decide⟩
/-- An empty span, and a plane of one byte. -/
theorem witness_DecBufDecodesThePayload_span :
    (let s := State.load State.reset Header.zero;
      s.hvalid = true ∧ Resolves s.header (1#4).toNat 0 ∧ 0 ≤ s.dstCap.toNat ∧ payloadSpan s.header (1#4).toNat 0 = 0) ∧
    (dualP.hvalid = true ∧ Resolves dualP.header (2#4).toNat 8 ∧ 8 ≤ dualP.dstCap.toNat ∧
      payloadStart dualP.header + payloadSpan dualP.header (2#4).toNat 8 ≤ 8 * dualP.srcLen.toNat) :=
  ⟨⟨by decide, witness_Resolves.2.2.2.1, by decide, by decide⟩, by decide, witness_Resolves.2.2.1, by decide, by decide⟩
theorem witness_DecFixFillsTheContainer :
    legalEsz 2 ∧ State.reset.hvalid = false ∧
    (dualP.hvalid = true ∧ DecodeRaises dualP.header (4#4).toNat .typeMismatch) ∧
    (let s := State.load State.reset Header.zero; s.hvalid = true ∧ Resolves s.header (1#4).toNat 0) :=
  ⟨by decide, by decide, ⟨by decide, witness_DecodeRaises.1⟩, by decide, witness_Resolves.2.2.2.1⟩
/-- Count 8 against capacity 7; the plane byte at byte 24 against three words and against four. -/
theorem witness_DecFixFillsTheContainer_count :
    dualP.hvalid = true ∧ Resolves dualP.header (2#4).toNat 8 ∧ 24 = payloadStart dualP.header ∧
    1 = payloadSpan dualP.header (2#4).toNat 8 ∧ 8 ≠ (State.dstCap { dualP with dstCap := 7 }).toNat ∧
    8 = dualP.dstCap.toNat ∧ 8 * (State.srcLen { dualP with srcLen := 3 }).toNat < 24 + 1 ∧
    24 + 1 ≤ 8 * dualP.srcLen.toNat :=
  ⟨by decide, witness_Resolves.2.2.1, by decide, by decide, by decide, by decide, by decide, by decide⟩
theorem witness_DecodeFaultsAreTheHeaderChecks :
    legalEsz 2 ∧ dualP.hvalid = true ∧ exec (.decBuf 2 false) dualP = .next (after (.decBuf 2 false) dualP) ∧
    exec (.decFix 4 false) dualP = .next (after (.decFix 4 false) dualP) ∧
    (after (.decFix 4 false) dualP).err = .typeMismatch :=
  ⟨by decide, by decide, rfl, rfl, by decide⟩
theorem witness_MismatchedDecodeIsRejected :
    let s := State.load dual { headerV3 with bpp := 1 };
    s.hvalid = true ∧ s.header.kind = .dualColor ∧ s.header.bpp = 1 := by decide
theorem witness_VerbatimCopyLaw :
    exec (.decBuf 1 true) { generic with dstCap := 5 } = .next (after (.decBuf 1 true) { generic with dstCap := 5 }) ∧
    (after (.decBuf 1 true) { generic with dstCap := 5 }).err = .ok ∧
    (after (.decFix 3 true) image).err = .ok ∧ (after (.decFix 3 true) image).header.kind ≠ .dualColor :=
  ⟨rfl, by decide, by decide, by decide⟩
theorem witness_TwoColourLaw :
    exec (.decFix 2 true) dual = .next (after (.decFix 2 true) dual) ∧ (after (.decFix 2 true) dual).err = .ok ∧
    (after (.decFix 2 true) dual).header.kind = .dualColor ∧ 7 < (after (.decFix 2 true) dual).count.toNat :=
  ⟨rfl, by decide, by decide, by decide⟩
theorem witness_WellFormedSequencesStayInRange :
    (SequenceWellFormed genericP ∧ SequenceWellFormed imageP ∧ SequenceWellFormed dualP ∧
      exec (.decBuf 2 false) dualP = .next (after (.decBuf 2 false) dualP)) ∧
    (exec .parse dual = .next (after .parse dual) ∧ (after .parse dual).err = .ok ∧
      SequenceWellFormed (after .parse dual) ∧ exec (.decFix 2 true) dual = .next (after (.decFix 2 true) dual)) := by
  unfold SequenceWellFormed
  exact ⟨⟨by decide, by decide, by decide, rfl⟩, rfl, by decide, by decide, rfl⟩
theorem witness_DynamicDecodeNeverOverruns :
    legalEsz 2 ∧ exec (.cntT 2 true) generic = .next (after (.cntT 2 true) generic) ∧
    (after (.cntT 2 true) generic).err = .ok ∧ (after (.cntT 2 true) State.reset).err ≠ .ok ∧
    (after (.cntT 8 true) generic).err = .ok ∧ (after (.cntT 8 true) generic).count = 0 ∧
    (after (.cntT 8 true) generic).header.kind ≠ .dualColor :=
  ⟨by decide, rfl, by decide, by decide, by decide, by decide, by decide⟩
theorem witness_PseudoOperationsSetTheirOperands :
    legalEsz 8 ∧ State.moves { dual with moves := movesIsImage } = movesIsImage ∧
    State.moves { dual with moves := movesGetWidth } = movesGetWidth ∧
    State.moves { dual with moves := movesGetHeight } = movesGetHeight ∧
    State.moves { dual with moves := movesElementCount } = movesElementCount ∧
    State.moves { dual with moves := movesTypedElementCount 8 } = movesTypedElementCount 8 ∧
    State.moves { dual with moves := movesDecodeInto 8 8 } = movesDecodeInto 8 8 ∧
    State.moves { dual with moves := movesDecodeFixed 8 8 } = movesDecodeFixed 8 8 ∧
    State.moves { dual with moves := movesReconstruct 8 24 1 2 8 8 } = movesReconstruct 8 24 1 2 8 8 := by decide

/-- A fault after a PARSE half that succeeded (S3), a fault of the PARSE half, and a plain fault. -/
theorem witness_FaultsArePrecise :
    exec .parse dual = .next (after .parse dual) ∧ exec (.decBuf 4 true) dual = .next (after (.decBuf 4 true) dual) ∧
    (after (.decBuf 4 true) dual).err ≠ .ok ∧ (after .parse dual).err = .ok ∧
    ((Instr.decBuf 4 true).wellFormed = true ∧ (Instr.decBuf 4 true).wBit = true) ∧
    (after (.decBuf 4 true) State.reset).err ≠ .ok ∧ (after .parse State.reset).err ≠ .ok ∧
    (after (.isimg false) State.reset).err ≠ .ok ∧ (Instr.isimg false).wBit = false :=
  ⟨rfl, rfl, by decide, by decide, by decide, by decide, by decide, by decide, by decide⟩
theorem witness_OperationsKeepOperandsAndSource :
    exec (.decFix 2 true) dual = .next (after (.decFix 2 true) dual) := rfl
theorem witness_OperationsWriteOnlyWhatIsListed :
    exec (.expand 1) plane = .next (after (.expand 1) plane) ∧ writesHeader (.expand 1) = false ∧
    writesResult (.expand 1) = false ∧ writesCount (.expand 1) = false ∧ writesDst (.isimg true) = false :=
  ⟨rfl, by decide, by decide, by decide, by decide⟩
/-- The DST clauses: a fault, the first byte past an expansion, and the first byte past a decode. -/
theorem witness_OperationsWriteOnlyWhatIsListed_dst :
    (after (.decBuf 4 true) dual).err ≠ .ok ∧ plane.regN.toNat * (1#4).toNat ≤ 10 ∧
    exec (.decFix 2 true) dual = .next (after (.decFix 2 true) dual) ∧ (after (.decFix 2 true) dual).err = .ok ∧
    (after (.decFix 2 true) dual).count.toNat * (2#4).toNat ≤ 16 :=
  ⟨by decide, by decide, rfl, by decide, by decide⟩
theorem witness_RecordedReadsStayInSource :
    exec (.decBuf 2 true) dual = .next (after (.decBuf 2 true) dual) ∧
    (after (.decBuf 2 true) dual).srcReads = [⟨0, 8⟩, ⟨8, 8⟩, ⟨16, 8⟩, ⟨24, 1⟩] := ⟨rfl, by decide⟩
/-- A fifth payload byte that a decode of two 2-byte elements never reads. -/
theorem witness_RecordedReadsAreAllThatMatters :
    exec (.decBuf 2 false) genericP = .next (after (.decBuf 2 false) genericP) ∧
    (after (.decBuf 2 false) genericP).srcReads.drop genericP.srcReads.length = [⟨8, 4⟩] ∧
    ∀ a, 8 ≤ a → a < 8 + 4 → Memory.read (Memory.write genericP.src 12 0) a = Memory.read genericP.src a := by
  refine ⟨rfl, by decide, ?_⟩
  intro a h1 h2
  rw [Memory.read_write, if_neg (by omega)]
/-- Two states that differ in `COUNT`, `RESULT`, `ERR` and a DST byte only. -/
theorem witness_ResultsDoNotDependOnHistory :
    let s' := { dualP with count := 9, result := 7, rvalid := true, err := .sourceRange, dst := [(99, 0xEE)] }
    dualP.srcLen = s'.srcLen ∧ dualP.header = s'.header ∧ dualP.src = s'.src ∧ dualP.count ≠ s'.count ∧
    exec (.decBuf 2 false) dualP = .next (after (.decBuf 2 false) dualP) ∧
    exec (.decBuf 2 false) s' = .next (after (.decBuf 2 false) s') ∧
    (after (.decBuf 2 false) dualP).err = .ok ∧ writesCount (.decBuf 2 false) = true :=
  ⟨rfl, rfl, rfl, by decide, rfl, rfl, by decide, rfl⟩
theorem witness_OperationsAreIdempotent :
    exec (.decBuf 2 true) dual = .next (after (.decBuf 2 true) dual) ∧
    exec (.decBuf 2 true) (after (.decBuf 2 true) dual)
      = .next (after (.decBuf 2 true) (after (.decBuf 2 true) dual)) := ⟨rfl, rfl⟩
theorem witness_IllegalSizesAreRaisedFirst : ¬legalEsz 0 ∧ ¬legalEsz 9 ∧ ¬legalEsz 15 := by decide

/-- The host's second question: the first step after reset runs the placed command (P5, step 2). -/
theorem test_first_command_after_reset :
    step (State.reset.withFetchWord 32 0x00000001) = .next (State.reset.raise .sourceRange) := rfl

/-- The encodings that R102, R112, R124 and R125 write out, for every legal size. -/
theorem test_sized_encodings : ∀ e : BitVec 4, legalEsz e →
    decode (0x00000006 + 16 * e.setWidth 32) = .ok (.cntT e false) ∧
    decode (0x00000007 + 16 * e.setWidth 32) = .ok (.expand e) ∧
    decode (0x00000108 + 16 * e.setWidth 32) = .ok (.decBuf e true) ∧
    decode (0x00000109 + 16 * e.setWidth 32) = .ok (.decFix e true) := by decide

end Sys2Proof.Tests
end

