-- ==== Sys2Proof/Proofs/Scope.lean ====
section
/-! PROOFS. The scope statements (00_scope.md). R5, that no earlier result matters, is a relational argument: two states
that hold the same inputs are run side by side, and every shared operation of the model keeps the two runs in agreement
(`Agrees`); the nine operations are assembled from these rules. -/

namespace Sys2Proof.Machine

/-! The host's read of DST -/

/-- A host read of a byte that exists records what the byte reads as (R9). -/
theorem hostReadDst_of_lt {a : Nat} (ha : a < Config.addressSpace) (s : State) :
    hostReadDst a s = .next { s with readings := s.readings ++ [.dst a (Memory.read s.dst a)] } := if_pos ha

/-- Settles O15: the step performs the read that stands first in the host's list. -/
theorem hostReadsOfDestination : Obligations.HostReadsOfDestination := by
  intro s a rest ha hmoves
  rw [step_cons hmoves]
  exact hostReadDst_of_lt ha _

/-! The inputs of an operation -/

/-- What an operation may depend on (R5): the operands, the header group with its flags, and SRC. The results and
the records of earlier operations are blanked, and so is DST. -/
def State.inputs (s : State) : State :=
  { s with
    count := 0, result := 0, err := .ok, rvalid := false
    dst := [], srcReads := [], readings := [], moves := [] }

section Fields
variable {s s' : State}

theorem srcLen_eq_of_inputs (h : s.inputs = s'.inputs) : s.srcLen = s'.srcLen :=
  (congrArg State.srcLen h :)
theorem srcOff_eq_of_inputs (h : s.inputs = s'.inputs) : s.srcOff = s'.srcOff :=
  (congrArg State.srcOff h :)
theorem regN_eq_of_inputs (h : s.inputs = s'.inputs) : s.regN = s'.regN :=
  (congrArg State.regN h :)
theorem pal0_eq_of_inputs (h : s.inputs = s'.inputs) : s.pal0 = s'.pal0 :=
  (congrArg State.pal0 h :)
theorem pal1_eq_of_inputs (h : s.inputs = s'.inputs) : s.pal1 = s'.pal1 :=
  (congrArg State.pal1 h :)
theorem dstCap_eq_of_inputs (h : s.inputs = s'.inputs) : s.dstCap = s'.dstCap :=
  (congrArg State.dstCap h :)
theorem header_eq_of_inputs (h : s.inputs = s'.inputs) : s.header = s'.header :=
  (congrArg State.header h :)
theorem hvalid_eq_of_inputs (h : s.inputs = s'.inputs) : s.hvalid = s'.hvalid :=
  (congrArg State.hvalid h :)
theorem dimv_eq_of_inputs (h : s.inputs = s'.inputs) : s.dimv = s'.dimv :=
  (congrArg State.dimv h :)
theorem palv_eq_of_inputs (h : s.inputs = s'.inputs) : s.palv = s'.palv :=
  (congrArg State.palv h :)
theorem src_eq_of_inputs (h : s.inputs = s'.inputs) : s.src = s'.src :=
  (congrArg State.src h :)

/-- The span check reads nothing but `SRC_LEN` (20_memory.md R42). -/
theorem spanInSource_eq_of_inputs (h : s.inputs = s'.inputs) (a n : Nat) :
    spanInSource s a n = spanInSource s' a n := by
  unfold spanInSource
  rw [srcLen_eq_of_inputs h]

/-- PARSE takes its reads and its Header or fault from `SRC_LEN` and SRC alone (40_header_unpack.md R89). -/
theorem unpackHeader_eq_of_inputs (h : s.inputs = s'.inputs) :
    unpackHeader s.srcLen s.src = unpackHeader s'.srcLen s'.src := by
  rw [srcLen_eq_of_inputs h, src_eq_of_inputs h]

end Fields

/-! Two runs side by side -/

/-- Two runs, `s` to `t` and `s'` to `t'`, leave the same inputs, report the same fault code, make the same reads, and
give every DST byte that was equal before an equal value. -/
structure SameEffect (s s' t t' : State) : Prop where
  inputs : t.inputs = t'.inputs
  err : t.err = t'.err
  dst : ∀ a, Memory.read s.dst a = Memory.read s'.dst a → Memory.read t.dst a = Memory.read t'.dst a
  reads : ∃ new, t.srcReads = s.srcReads ++ new ∧ t'.srcReads = s'.srcReads ++ new

/-- Two runs of operation `i` agree: their effects are the same, and on success so is each result that `i` writes. -/
structure Agrees (i : Instr) (s s' t t' : State) : Prop where
  effect : SameEffect s s' t t'
  result : t.err = .ok → writesResult i = true → t.result = t'.result ∧ t.rvalid = t'.rvalid
  count : t.err = .ok → writesCount i = true → t.count = t'.count

theorem SameEffect.trans_reads {s s' p p' t t' : State} (h : SameEffect s s' p p') (h' : SameEffect p p' t t') :
    ∃ new, t.srcReads = s.srcReads ++ new ∧ t'.srcReads = s'.srcReads ++ new := by
  obtain ⟨first, hp, hp'⟩ := h.reads
  obtain ⟨second, ht, ht'⟩ := h'.reads
  exact ⟨first ++ second, by rw [ht, hp, List.append_assoc], by rw [ht', hp', List.append_assoc]⟩

/-- A common first half, as the PARSE of a W form is, does not disturb the agreement of what follows. -/
theorem SameEffect.trans_agrees {i : Instr} {s s' p p' t t' : State} (h : SameEffect s s' p p')
    (h' : Agrees i p p' t t') : Agrees i s s' t t' where
  effect := ⟨h'.effect.inputs, h'.effect.err, fun a ha => h'.effect.dst a (h.dst a ha), h.trans_reads h'.effect⟩
  result := h'.result
  count := h'.count

/-- After a fault there is no result to compare. -/
theorem SameEffect.agrees_of_fault {s s' t t' : State} (h : SameEffect s s' t t') (i : Instr) (hf : t.err ≠ .ok) :
    Agrees i s s' t t' :=
  ⟨h, fun ho => absurd ho hf, fun ho => absurd ho hf⟩

/-- A branch on a condition that both runs share. -/
theorem Agrees.ite {i : Instr} {s s' t t' u u' : State} (c : Prop) [Decidable c] (ht : Agrees i s s' t t')
    (hu : Agrees i s s' u u') : Agrees i s s' (if c then t else u) (if c then t' else u') := by
  by_cases hc : c
  · rwa [if_pos hc, if_pos hc]
  · rwa [if_neg hc, if_neg hc]

/-! The shared operations keep two runs in agreement -/

section Rules
variable {i : Instr} {s s' : State}

/-- An effect without reads and without a write to DST. -/
theorem sameEffect_of_registers {t t' : State} (hin : t.inputs = t'.inputs) (herr : t.err = t'.err)
    (hdst : t.dst = s.dst) (hdst' : t'.dst = s'.dst) (hreads : t.srcReads = s.srcReads)
    (hreads' : t'.srcReads = s'.srcReads) : SameEffect s s' t t' where
  inputs := hin
  err := herr
  dst a ha := by rw [hdst, hdst', ha]
  reads := ⟨[], by rw [hreads, List.append_nil], by rw [hreads', List.append_nil]⟩

theorem raise_agrees (h : s.inputs = s'.inputs) {e : ErrCode} (he : e ≠ .ok) :
    Agrees i s s' (s.raise e) (s'.raise e) := by
  have heffect : SameEffect s s' (s.raise e) (s'.raise e) := sameEffect_of_registers h rfl rfl rfl rfl rfl
  exact heffect.agrees_of_fault i he

theorem giveResult_agrees (h : s.inputs = s'.inputs) (hi : writesCount i = false) (v : BitVec 32) :
    Agrees i s s' (s.giveResult v) (s'.giveResult v) where
  effect := sameEffect_of_registers h rfl rfl rfl rfl rfl
  result _ _ := ⟨rfl, rfl⟩
  count _ hc := absurd hc (by simp [hi])

theorem giveNoResult_agrees (h : s.inputs = s'.inputs) (hi : writesCount i = false) :
    Agrees i s s' s.giveNoResult s'.giveNoResult where
  effect := sameEffect_of_registers h rfl rfl rfl rfl rfl
  result _ _ := ⟨rfl, rfl⟩
  count _ hc := absurd hc (by simp [hi])

theorem giveCount_agrees (h : s.inputs = s'.inputs) (hi : writesResult i = false) (n : Nat) :
    Agrees i s s' (s.giveCount n) (s'.giveCount n) where
  effect := sameEffect_of_registers h rfl rfl rfl rfl rfl
  result _ hr := absurd hr (by simp [hi])
  count _ _ := rfl

theorem needHeader_agrees (h : s.inputs = s'.inputs) {op : State → State} (hop : Agrees i s s' (op s) (op s')) :
    Agrees i s s' (needHeader s op) (needHeader s' op) := by
  unfold needHeader
  rw [hvalid_eq_of_inputs h]
  exact .ite _ hop (raise_agrees h nofun)

theorem needEsz_agrees (h : s.inputs = s'.inputs) (e : BitVec 4) (body : Nat → State → State)
    (hbody : 1 ≤ e.toNat → Agrees i s s' (body e.toNat s) (body e.toNat s')) :
    Agrees i s s' (needEsz e s fun sz => body sz s) (needEsz e s' fun sz => body sz s') := by
  by_cases he : legalEsz e
  · rw [needEsz_of_legal he, needEsz_of_legal he]
    exact hbody he.1
  · rw [needEsz_of_not_legal he, needEsz_of_not_legal he]
    exact raise_agrees h nofun

/-- PARSE raises the same fault in both runs or commits the same Header (40_header_unpack.md R91). -/
theorem parseStep_sameEffect (h : s.inputs = s'.inputs) : SameEffect s s' (parseStep s) (parseStep s') := by
  unfold parseStep
  rw [unpackHeader_eq_of_inputs h]
  cases (unpackHeader s'.srcLen s'.src).2 with
  | error e => exact ⟨h, rfl, fun _ ha => ha, _, rfl, rfl⟩
  | ok hd =>
    exact ⟨(congrArg (fun u => u.commitHeader hd) h :), rfl, fun _ ha => ha, _, rfl, rfl⟩

/-- The W form (40_header_unpack.md R96): both runs stop with PARSE's fault, or both go on with the body. -/
theorem wForm_agrees (h : s.inputs = s'.inputs) (w : Bool) {op : State → State}
    (hop : ∀ p p' : State, p.inputs = p'.inputs → Agrees i p p' (op p) (op p')) :
    Agrees i s s' (wForm w op s) (wForm w op s') := by
  have hparse := parseStep_sameEffect h
  cases w with
  | false => exact hop s s' h
  | true =>
    rw [wForm_true, wForm_true, ← hparse.err]
    by_cases hok : (parseStep s).err = .ok
    · rw [if_pos hok, if_pos hok]
      exact hparse.trans_agrees (hop _ _ hparse.inputs)
    · rw [if_neg hok, if_neg hok]
      exact hparse.agrees_of_fault i hok

/-! The bodies of the operations -/

theorem isimgStep_agrees (h : s.inputs = s'.inputs) (hi : writesCount i = false) :
    Agrees i s s' (isimgStep s) (isimgStep s') := by
  refine needHeader_agrees h ?_
  rw [header_eq_of_inputs h]
  exact giveResult_agrees h hi _

theorem accessorStep_agrees (h : s.inputs = s'.inputs) (hi : writesCount i = false)
    (field : Header → BitVec 16) : Agrees i s s' (accessorStep field s) (accessorStep field s') := by
  refine needHeader_agrees h ?_
  rw [header_eq_of_inputs h]
  exact .ite _ (giveResult_agrees h hi _) (giveNoResult_agrees h hi)

theorem cntImgStep_agrees (h : s.inputs = s'.inputs) (hi : writesResult i = false) :
    Agrees i s s' (cntImgStep s) (cntImgStep s') := by
  refine needHeader_agrees h ?_
  rw [header_eq_of_inputs h]
  exact .ite _ (raise_agrees h nofun) (giveCount_agrees h hi _)

theorem cntTStep_agrees (h : s.inputs = s'.inputs) (hi : writesResult i = false) (sz : Nat) :
    Agrees i s s' (cntTStep sz s) (cntTStep sz s') := by
  refine needHeader_agrees h ?_
  rw [header_eq_of_inputs h]
  exact .ite _ (raise_agrees h nofun) (giveCount_agrees h hi _)

/-- EXPAND writes the same bytes in both runs and leaves the others alone (42_bitplane_expand.md R112). -/
theorem expandStep_agrees (h : s.inputs = s'.inputs) (hr : writesResult i = false) (hc : writesCount i = false)
    (sz : Nat) : Agrees i s s' (expandStep sz s) (expandStep sz s') := by
  unfold expandStep
  rw [spanInSource_eq_of_inputs h, regN_eq_of_inputs h, dstCap_eq_of_inputs h, srcOff_eq_of_inputs h,
    src_eq_of_inputs h, pal0_eq_of_inputs h, pal1_eq_of_inputs h]
  refine .ite _ (raise_agrees h nofun) (.ite _ (raise_agrees h nofun) ?_)
  refine ⟨⟨h, rfl, fun a ha => ?_, _, rfl, rfl⟩, fun _ hw => absurd hw (by simp [hr]),
    fun _ hw => absurd hw (by simp [hc])⟩
  rw [read_expandInto, read_expandInto, ha]

/-- The end of a decode delivers the bytes of the header and the payload, which both runs share
(43_payload_decode.md R124, R125, R127, R128). -/
theorem decodeDeliver_agrees (h : s.inputs = s'.inputs) (hi : writesResult i = false) {sz : Nat} (hsz : 1 ≤ sz)
    {r : Resolved} (hr : decodeResolve s'.header sz = .ok r) :
    Agrees i s s' (decodeDeliver s sz r) (decodeDeliver s' sz r) := by
  have hheader := header_eq_of_inputs h
  unfold decodeDeliver
  rw [spanInSource_eq_of_inputs h]
  refine .ite _ (raise_agrees h nofun) ?_
  refine ⟨⟨h, rfl, fun a ha => ?_, _, rfl, rfl⟩, fun _ hw => absurd hw (by simp [hi]), fun _ _ => rfl⟩
  rw [read_decodeInto s (hheader ▸ hr) hsz, read_decodeInto s' hr hsz, hheader, src_eq_of_inputs h, ha]

/-- `DecodeResolve` never fails with the code of success (R123). -/
theorem decodeResolve_ne_error_ok {h : Header} {sz : Nat} (hsz : 1 ≤ sz) : decodeResolve h sz ≠ .error .ok :=
  fun he => (decodeResolve_eq_error hsz).mp he

theorem decBufStep_agrees (h : s.inputs = s'.inputs) (hi : writesResult i = false) {sz : Nat} (hsz : 1 ≤ sz) :
    Agrees i s s' (decBufStep sz s) (decBufStep sz s') := by
  refine needHeader_agrees h ?_
  rw [header_eq_of_inputs h, dstCap_eq_of_inputs h]
  cases hr : decodeResolve s'.header sz with
  | error e => exact raise_agrees h fun he => decodeResolve_ne_error_ok hsz (he ▸ hr)
  | ok r => exact .ite _ (raise_agrees h nofun) (decodeDeliver_agrees h hi hsz hr)

theorem decFixStep_agrees (h : s.inputs = s'.inputs) (hi : writesResult i = false) {sz : Nat} (hsz : 1 ≤ sz) :
    Agrees i s s' (decFixStep sz s) (decFixStep sz s') := by
  refine needHeader_agrees h ?_
  rw [header_eq_of_inputs h, dstCap_eq_of_inputs h]
  cases hr : decodeResolve s'.header sz with
  | error e => exact raise_agrees h fun he => decodeResolve_ne_error_ok hsz (he ▸ hr)
  | ok r =>
    exact .ite _ (raise_agrees h nofun) (.ite _ (raise_agrees h nofun) (decodeDeliver_agrees h hi hsz hr))

end Rules

theorem bodyOf_agrees (i : Instr) {s s' : State} (h : s.inputs = s'.inputs) :
    Agrees i s s' (bodyOf i s) (bodyOf i s') := by
  cases i with
  | parse => exact ⟨parseStep_sameEffect h, nofun, nofun⟩
  | isimg w => exact isimgStep_agrees h rfl
  | getw w => exact accessorStep_agrees h rfl Header.width
  | geth w => exact accessorStep_agrees h rfl Header.height
  | cntImg w => exact cntImgStep_agrees h rfl
  | cntT e w => exact needEsz_agrees h e cntTStep fun _ => cntTStep_agrees h rfl _
  | expand e => exact needEsz_agrees h e expandStep fun _ => expandStep_agrees h rfl rfl _
  | decBuf e w => exact needEsz_agrees h e decBufStep fun hsz => decBufStep_agrees h rfl hsz
  | decFix e w => exact needEsz_agrees h e decFixStep fun hsz => decFixStep_agrees h rfl hsz

/-- An operation run from the same inputs agrees with itself, whatever was left of earlier operations (R5). -/
theorem exec_agrees {i : Instr} {s s' t t' : State} (h : s.inputs = s'.inputs) (ht : exec i s = .next t)
    (ht' : exec i s' = .next t') : Agrees i s s' t t' := by
  cases hw : i.wellFormed with
  | false =>
    rw [exec_ill_formed hw, Host.Outcome.next.injEq] at ht ht'
    rw [← ht, ← ht']
    exact raise_agrees h nofun
  | true =>
    rw [exec_eq_wForm hw, Host.Outcome.next.injEq] at ht ht'
    rw [← ht, ← ht']
    exact wForm_agrees h i.wBit fun _ _ hp => bodyOf_agrees i hp

/-- Settles O49: the hypotheses say that the two states hold the same inputs, and then the two runs agree. -/
theorem resultsDoNotDependOnHistory : Obligations.ResultsDoNotDependOnHistory := by
  intro i s s' t t' hlen hoff hn hpal0 hpal1 hcap hheader hhvalid hdimv hpalv hsrc ht ht'
  have hin : s.inputs = s'.inputs := by
    simp only [State.inputs, hlen, hoff, hn, hpal0, hpal1, hcap, hheader, hhvalid, hdimv, hpalv, hsrc]
  obtain ⟨⟨hinputs, herr, hdst, new, hreads, hreads'⟩, hresult, hcount⟩ := exec_agrees hin ht ht'
  refine ⟨herr, header_eq_of_inputs hinputs, hvalid_eq_of_inputs hinputs, dimv_eq_of_inputs hinputs,
    palv_eq_of_inputs hinputs, hresult, hcount, hdst, ?_⟩
  rw [hreads, hreads', List.drop_left, List.drop_left]

end Sys2Proof.Machine
end

section
/-! PROOFS. The state statements (10_state.md): the registers and `STATUS` as the host sees them, the host's moves, and
what an operation and a step keep. A property of the states before and after that PARSE, a raised fault and every body
have, and that composes, holds of every operation (`exec_related`); the frame statements and the invariant are uses of
this one rule. -/

namespace Sys2Proof.Machine

/-! The register file as the host sees it -/

/-- A write through the register file touches operand registers only (10_state.md R34). -/
theorem State.writeReg_eq (s : State) (r : BitVec 5) (v : BitVec 64) :
    s.writeReg r v =
      { s with
        srcLen := (s.writeReg r v).srcLen, srcOff := (s.writeReg r v).srcOff, regN := (s.writeReg r v).regN
        pal0 := (s.writeReg r v).pal0, pal1 := (s.writeReg r v).pal1, dstCap := (s.writeReg r v).dstCap } := by
  unfold State.writeReg
  split <;> rfl

/-! What a register write leaves alone, field by field -/

@[simp] theorem State.writeReg_header (s : State) (r : BitVec 5) (v : BitVec 64) : (s.writeReg r v).header = s.header :=
  (congrArg State.header (s.writeReg_eq r v) :)
@[simp] theorem State.writeReg_count (s : State) (r : BitVec 5) (v : BitVec 64) : (s.writeReg r v).count = s.count :=
  (congrArg State.count (s.writeReg_eq r v) :)
@[simp] theorem State.writeReg_result (s : State) (r : BitVec 5) (v : BitVec 64) : (s.writeReg r v).result = s.result :=
  (congrArg State.result (s.writeReg_eq r v) :)
@[simp] theorem State.writeReg_err (s : State) (r : BitVec 5) (v : BitVec 64) : (s.writeReg r v).err = s.err :=
  (congrArg State.err (s.writeReg_eq r v) :)
@[simp] theorem State.writeReg_hvalid (s : State) (r : BitVec 5) (v : BitVec 64) : (s.writeReg r v).hvalid = s.hvalid :=
  (congrArg State.hvalid (s.writeReg_eq r v) :)
@[simp] theorem State.writeReg_dimv (s : State) (r : BitVec 5) (v : BitVec 64) : (s.writeReg r v).dimv = s.dimv :=
  (congrArg State.dimv (s.writeReg_eq r v) :)
@[simp] theorem State.writeReg_palv (s : State) (r : BitVec 5) (v : BitVec 64) : (s.writeReg r v).palv = s.palv :=
  (congrArg State.palv (s.writeReg_eq r v) :)
@[simp] theorem State.writeReg_rvalid (s : State) (r : BitVec 5) (v : BitVec 64) : (s.writeReg r v).rvalid = s.rvalid :=
  (congrArg State.rvalid (s.writeReg_eq r v) :)
@[simp] theorem State.writeReg_src (s : State) (r : BitVec 5) (v : BitVec 64) : (s.writeReg r v).src = s.src :=
  (congrArg State.src (s.writeReg_eq r v) :)
@[simp] theorem State.writeReg_dst (s : State) (r : BitVec 5) (v : BitVec 64) : (s.writeReg r v).dst = s.dst :=
  (congrArg State.dst (s.writeReg_eq r v) :)
@[simp] theorem State.writeReg_srcReads (s : State) (r : BitVec 5) (v : BitVec 64) :
    (s.writeReg r v).srcReads = s.srcReads := (congrArg State.srcReads (s.writeReg_eq r v) :)
@[simp] theorem State.writeReg_readings (s : State) (r : BitVec 5) (v : BitVec 64) :
    (s.writeReg r v).readings = s.readings := (congrArg State.readings (s.writeReg_eq r v) :)
@[simp] theorem State.writeReg_moves (s : State) (r : BitVec 5) (v : BitVec 64) : (s.writeReg r v).moves = s.moves :=
  (congrArg State.moves (s.writeReg_eq r v) :)

/-- A register that is no operand register ignores a write (R34). -/
theorem State.writeReg_of_not_operand {r : BitVec 5} (h : 6 ≤ r.toNat) (s : State) (v : BitVec 64) :
    s.writeReg r v = s := by
  unfold State.writeReg
  split
  case h_7 => rfl
  all_goals omega

/-- A write of one register does not change what another reads as. -/
theorem State.readReg_writeReg_of_ne {r r' : BitVec 5} (h : r' ≠ r) (s : State) (v : BitVec 64) :
    (s.writeReg r v).readReg r' = s.readReg r' := by
  have hne : r'.toNat ≠ r.toNat := fun he => h (BitVec.eq_of_toNat_eq he)
  unfold State.writeReg
  split
  all_goals
    unfold State.readReg
    split <;> simp_all [State.status]

/-- A 32-bit operand register keeps the low 32 bits of the bus value (R34). -/
theorem State.readReg_writeReg_of_mem {r : BitVec 5} (h : r.toNat ∈ [0, 1, 2, 5]) (s : State) (v : BitVec 64) :
    (s.writeReg r v).readReg r = (v.setWidth 32).setWidth 64 := by
  simp only [List.mem_cons, List.not_mem_nil, or_false] at h
  rcases h with h | h | h | h <;> simp [State.writeReg, State.readReg, h]

/-- A palette register keeps the whole bus value (R20, R34). -/
theorem State.readReg_writeReg_palette {r : BitVec 5} (h : r.toNat ∈ [3, 4]) (s : State) (v : BitVec 64) :
    (s.writeReg r v).readReg r = v := by
  simp only [List.mem_cons, List.not_mem_nil, or_false] at h
  rcases h with h | h <;> simp [State.writeReg, State.readReg, h]

/-- What a register write leaves behind, read at any register (R34). -/
theorem State.readReg_writeReg (s : State) (r r' : BitVec 5) (v : BitVec 64) :
    (s.writeReg r v).readReg r' =
      if r' = r ∧ r.toNat ∈ [0, 1, 2, 5] then (v.setWidth 32).setWidth 64
      else if r' = r ∧ r.toNat ∈ [3, 4] then v
      else s.readReg r' := by
  by_cases hr : r' = r
  · subst hr
    by_cases hword : r'.toNat ∈ [0, 1, 2, 5]
    · rw [if_pos ⟨rfl, hword⟩, s.readReg_writeReg_of_mem hword]
    · rw [if_neg fun h => hword h.2]
      by_cases hpal : r'.toNat ∈ [3, 4]
      · rw [if_pos ⟨rfl, hpal⟩, s.readReg_writeReg_palette hpal]
      · rw [if_neg fun h => hpal h.2, s.writeReg_of_not_operand]
        simp only [List.mem_cons, List.not_mem_nil, or_false] at hword hpal
        omega
  · rw [if_neg fun h => hr h.1, if_neg fun h => hr h.1, s.readReg_writeReg_of_ne hr]

/-- `CMD` and the reserved registers read 0 (R16, R34). -/
theorem State.readReg_reserved {r : BitVec 5} (h : r.toNat ∈ [6, 7, 15, 31] ∨ (19 ≤ r.toNat ∧ r.toNat ≤ 30))
    (s : State) : s.readReg r = 0 := by
  simp only [List.mem_cons, List.not_mem_nil, or_false] at h
  unfold State.readReg
  split
  case h_17 => rfl
  all_goals omega

/-- Every bit of `STATUS` by its number (10_state.md R28). -/
theorem statusWord_getLsbD (e : ErrCode) (hvalid dimv palv rvalid : Bool) (k : Nat) :
    (statusWord e hvalid dimv palv rvalid).getLsbD k =
      if k < 5 then e.code.getLsbD k
      else if k = 8 then hvalid else if k = 9 then dimv else if k = 10 then palv else if k = 11 then rvalid
      else false := by
  simp only [statusWord, BitVec.getLsbD_append, BitVec.getLsbD_ofBool, BitVec.getLsbD_zero]
  rcases Nat.lt_or_ge k 12 with hk | hk
  · interval_cases k <;> simp
  · simp [show ¬k < 12 by omega, show ¬k < 5 by omega, show k ≠ 8 by omega, show k ≠ 9 by omega,
      show k ≠ 10 by omega, show k ≠ 11 by omega]

/-- Settles O12: each number is read off the table, the reserved ones by `State.readReg_reserved`. -/
theorem registersReadAtTheirNumbers : Obligations.RegistersReadAtTheirNumbers := by
  intro s
  have hkind : s.readReg 8 = s.header.kind.code.setWidth 64 := rfl
  refine ⟨rfl, rfl, rfl, rfl, rfl, rfl, ?_, rfl, rfl, rfl, rfl, rfl, rfl, rfl, rfl, rfl,
    fun r hr => s.readReg_reserved hr⟩
  rw [hkind]
  cases s.header.kind <;> rfl

/-- Settles O14: every bit of the word is given by `statusWord_getLsbD`. -/
theorem statusWordLayout : Obligations.StatusWordLayout := by
  intro s
  have hbit : ∀ k, s.status.getLsbD k = _ := statusWord_getLsbD s.err s.hvalid s.dimv s.palv s.rvalid
  refine ⟨?_, hbit 8, hbit 9, hbit 10, hbit 11, fun k hk => ?_, by decide⟩
  · apply BitVec.eq_of_getLsbD_eq
    intro k hk
    rw [BitVec.getLsbD_extractLsb', Nat.zero_add, hbit, if_pos hk]
    simp [hk]
  · rw [hbit, if_neg (by omega), if_neg (by omega), if_neg (by omega), if_neg (by omega), if_neg (by omega)]

/-! The host's moves -/

/-- A bus value written to `CMD` issues its low 32 bits (R31, R34). -/
theorem hostWrite_command (v : BitVec 64) (s : State) : hostWrite 31 v s = issueCommand (v.setWidth 32) s := if_pos rfl

theorem hostWrite_register {r : BitVec 5} (h : r ≠ 31) (v : BitVec 64) (s : State) :
    hostWrite r v s = .next (s.writeReg r v) := if_neg h

theorem issueCommand_of_ok {c : Command} {i : Instr} (h : decode c = .ok i) (s : State) :
    issueCommand c s = exec i s := by
  unfold issueCommand
  rw [h]

/-- A word that is no legal command is a fault that changes nothing but `ERR` (30_encoding.md R78). -/
theorem issueCommand_of_illegal {c : Command} (h : ¬∃ i, decode c = .ok i) (s : State) :
    issueCommand c s = .next (s.raise .illegalCommand) := by
  unfold issueCommand
  cases hd : decode c with
  | ok i => exact absurd ⟨i, hd⟩ h
  | error e => rfl

/-- A write of `CMD` is the next move: the step issues the low 32 bits at the state without that move. -/
theorem step_command {s : State} {v : BitVec 64} {rest : List HostMove} (h : s.moves = .writeReg 31 v :: rest) :
    step s = issueCommand (v.setWidth 32) { s with moves := rest } :=
  (step_cons h).trans (hostWrite_command v _)

/-- Settles O7: the step issues the word, and issuing is decided by what the word decodes to. -/
theorem commandPortRunsTheDecodedOperation : Obligations.CommandPortRunsTheDecodedOperation := by
  intro s v rest hmoves
  rw [step_command hmoves]
  exact ⟨fun i hi => issueCommand_of_ok hi _, fun hill => issueCommand_of_illegal hill _, rfl⟩

/-- Issuing a 32-bit command through the 64-bit bus loses nothing (R31). -/
theorem step_issueMove {s : State} {c : Command} {rest : List HostMove} (h : s.moves = issueMove c :: rest) :
    step s = issueCommand c { s with moves := rest } := by
  rw [step_command h, BitVec.setWidth_setWidth_of_le c (by omega), BitVec.setWidth_eq]

/-- Settles O52: as for a bus value, with the command itself as the word. -/
theorem commandWriteIssuesTheOperation : Obligations.CommandWriteIssuesTheOperation := by
  intro s c rest hmoves
  rw [step_issueMove hmoves]
  exact ⟨fun i hi => issueCommand_of_ok hi _, fun hill => issueCommand_of_illegal hill _, rfl⟩

/-- Settles O8: the placed word is the next command, and taking its move off again leaves the state as it was. -/
theorem placedCommandIsTheNextToRun : Obligations.PlacedCommandIsTheNextToRun := by
  intro s w i hw hdecode
  have hmoves : (s.withFetchWord 32 w).moves = issueMove (BitVec.ofNat 32 w) :: s.moves := by
    rw [State.withFetchWord, Nat.mod_eq_of_lt hw]
  rw [step_issueMove hmoves, issueCommand_of_ok hdecode]
  rfl

/-- Settles O9: `step_nil` is the idle step. -/
theorem idleUnitKeepsItsState : Obligations.IdleUnitKeepsItsState := fun _ hmoves => step_nil hmoves

/-- Settles O13: what a write leaves in the registers is `State.readReg_writeReg`, and its frame lemmas say that it
touches nothing beside them. -/
theorem hostRegisterAccesses : Obligations.HostRegisterAccesses := by
  intro s r v rest
  refine ⟨fun hmoves hr => ?_, fun hmoves => step_cons hmoves, fun hr => s.readReg_reserved hr⟩
  exact ⟨_, (step_cons hmoves).trans (hostWrite_register hr v _), State.writeReg_moves ..,
    fun r' => State.readReg_writeReg _ r r' v, State.writeReg_src .., State.writeReg_dst .., State.writeReg_srcReads ..,
    State.writeReg_readings .., State.writeReg_header .., State.writeReg_err .., State.writeReg_hvalid ..,
    State.writeReg_dimv .., State.writeReg_palv .., State.writeReg_rvalid ..⟩

/-! What every operation does to a state -/

/-- A relation of two states that composes, and that PARSE, a raised fault and the body of `i` each meet, holds of what
the operation `i` does: with PARSE and the body, that is all a W form consists of (40_header_unpack.md R96). -/
theorem exec_related {R : State → State → Prop} (htrans : ∀ s p t, R s p → R p t → R s t)
    (hraise : ∀ s e, R s (s.raise e)) (hparse : ∀ s, R s (parseStep s)) {i : Instr}
    (hbody : i ≠ .parse → ∀ s, R s (bodyOf i s)) {s t : State} (h : exec i s = .next t) : R s t := by
  rcases exec_cases h with ⟨-, rfl⟩ | ⟨-, rfl⟩ | ⟨-, -, -, -, rfl⟩ | ⟨hi, -, p, hp, rfl⟩
  · exact hraise s _
  · exact hparse s
  · exact hparse s
  · rcases bodyStart_cases hp with ⟨-, rfl⟩ | ⟨-, rfl, -⟩
    · exact hbody hi p
    · exact htrans _ _ _ (hparse s) (hbody hi _)

/-- The operand registers, SRC and the host's records: what the host alone writes (10_state.md R16, 20_memory.md
R41). -/
def State.hostOwned (s : State) :=
  (s.srcLen, s.srcOff, s.regN, s.pal0, s.pal1, s.dstCap, s.src, s.readings, s.moves)

theorem exec_hostOwned {i : Instr} {s t : State} (h : exec i s = .next t) : t.hostOwned = s.hostOwned :=
  exec_related (R := fun s t => t.hostOwned = s.hostOwned) (fun _ _ _ hp ht => ht.trans hp) (fun _ _ => rfl)
    (fun s => by simp only [State.hostOwned, parseStep_keeps s])
    (fun hi s => by simp only [State.hostOwned, body_keeps _ hi s]) h

/-- Settles O45: `exec_hostOwned`, component by component. -/
theorem operationsKeepOperandsAndSource : Obligations.OperationsKeepOperandsAndSource := by
  intro i s t h
  simpa only [State.hostOwned, Prod.mk.injEq] using exec_hostOwned h

/-! The reads -/

/-- PARSE reads a header word only after it has checked that `SRC_LEN` covers it (40_header_unpack.md R89, R90). -/
theorem unpackHeader_reads_in_source (n : BitVec 32) (m : Memory) :
    ∀ r ∈ (unpackHeader n m).1, r.addr + r.len ≤ 8 * n.toNat := by
  unfold unpackHeader
  repeat' split
  all_goals
    simp only [List.mem_cons, List.not_mem_nil, or_false, forall_eq_or_imp, forall_eq, headerRead,
      false_imp_iff, implies_true]
  all_goals omega

theorem parseStep_srcReads (s : State) :
    (parseStep s).srcReads = s.srcReads ++ (unpackHeader s.srcLen s.src).1 := by
  rcases parseStep_cases s with ⟨e, -, h⟩ | ⟨hd, -, h⟩ <;> rw [h] <;> rfl

/-- From `s` to `t` only SRC bytes below `8 * SRC_LEN` are read (R17). -/
def ReadsInSource (s t : State) : Prop :=
  t.srcLen = s.srcLen ∧
  ∃ reads, t.srcReads = s.srcReads ++ reads ∧ ∀ r ∈ reads, r.addr + r.len ≤ 8 * s.srcLen.toNat

theorem ReadsInSource.trans {s p t : State} (h : ReadsInSource s p) (h' : ReadsInSource p t) :
    ReadsInSource s t := by
  obtain ⟨hlen, first, hfirst, hin⟩ := h
  obtain ⟨hlen', second, hsecond, hin'⟩ := h'
  refine ⟨hlen'.trans hlen, first ++ second, by rw [hsecond, hfirst, List.append_assoc], fun r hr => ?_⟩
  rcases List.mem_append.mp hr with hr | hr
  · exact hin r hr
  · exact hlen ▸ hin' r hr

theorem raise_readsInSource (s : State) (e : ErrCode) : ReadsInSource s (s.raise e) :=
  ⟨rfl, [], (List.append_nil _).symm, nofun⟩

theorem parseStep_readsInSource (s : State) : ReadsInSource s (parseStep s) :=
  ⟨by simp only [parseStep_keeps s], _, parseStep_srcReads s, unpackHeader_reads_in_source s.srcLen s.src⟩

theorem bodyOf_readsInSource {i : Instr} (hi : i ≠ .parse) (s : State) : ReadsInSource s (bodyOf i s) := by
  rcases body_cases i hi s with ⟨e, -, h⟩ | h
  · rw [h]
    exact raise_readsInSource s e
  · exact ⟨by simp only [body_keeps i hi s], h.reads⟩

/-- Settles O47: PARSE and every body read inside SRC, and reads compose. -/
theorem recordedReadsStayInSource : Obligations.RecordedReadsStayInSource := by
  intro i s t h
  have hreads : ReadsInSource s t :=
    exec_related (R := ReadsInSource) (fun _ _ _ => .trans) raise_readsInSource parseStep_readsInSource
      bodyOf_readsInSource h
  exact hreads.2

/-! The header flag -/

/-- PARSE commits a Header or leaves `HVALID` alone; no body writes it (R30 (g)). -/
theorem exec_hvalid {i : Instr} {s t : State} (h : exec i s = .next t) : s.hvalid = true → t.hvalid = true := by
  refine exec_related (R := fun s t => s.hvalid = true → t.hvalid = true) (fun _ _ _ hp ht hv => ht (hp hv))
    (fun _ _ hv => hv) (fun s hv => ?_) (fun hi s hv => ?_) h
  · rcases parseStep_cases s with ⟨e, -, h⟩ | ⟨hd, -, h⟩ <;> rw [h]
    · exact hv
    · rfl
  · simpa only [body_keeps _ hi s] using hv

/-! What a step can do -/

/-- What a move of the host that has a next state does: one case for each kind of move, three for a register write. -/
inductive MoveEffect (s : State) : HostMove → State → Prop
  | operand (r : BitVec 5) (v : BitVec 64) : r ≠ 31 → MoveEffect s (.writeReg r v) (s.writeReg r v)
  | command (v : BitVec 64) (i : Instr) (t : State) :
      decode (v.setWidth 32) = .ok i → exec i s = .next t → MoveEffect s (.writeReg 31 v) t
  | illegal (v : BitVec 64) :
      (¬∃ i, decode (v.setWidth 32) = .ok i) → MoveEffect s (.writeReg 31 v) (s.raise .illegalCommand)
  | readReg (r : BitVec 5) :
      MoveEffect s (.readReg r) { s with readings := s.readings ++ [.reg r (s.readReg r)] }
  | readDst (a : Nat) : a < Config.addressSpace →
      MoveEffect s (.readDst a) { s with readings := s.readings ++ [.dst a (Memory.read s.dst a)] }
  | writeDst (a : Nat) (b : Byte) : a < Config.addressSpace →
      MoveEffect s (.writeDst a b) { s with dst := Memory.write s.dst a b }
  | supplySrc (ws : List SrcWord) : 8 * ws.length ≤ Config.addressSpace →
      MoveEffect s (.supplySrc ws) { s with src := Memory.loadWords [] 0 ws }
  | resetUnit : MoveEffect s .resetUnit s.resetUnit

theorem hostWrite_effect {r : BitVec 5} {v : BitVec 64} {s t : State} (h : hostWrite r v s = .next t) :
    MoveEffect s (.writeReg r v) t := by
  by_cases hr : r = 31
  · subst hr
    rw [hostWrite_command] at h
    by_cases hd : ∃ i, decode (v.setWidth 32) = .ok i
    · obtain ⟨i, hi⟩ := hd
      exact .command v i t hi (issueCommand_of_ok hi s ▸ h)
    · rw [issueCommand_of_illegal hd] at h
      cases h
      exact .illegal v hd
  · rw [hostWrite_register hr] at h
    cases h
    exact .operand r v hr

theorem performMove_effect {mv : HostMove} {s t : State} (h : performMove mv s = .next t) : MoveEffect s mv t := by
  cases mv with
  | writeReg r v => exact hostWrite_effect h
  | readReg r =>
    cases h
    exact .readReg r
  | readDst a =>
    by_cases ha : a < Config.addressSpace
    · cases (if_pos ha).symm.trans h
      exact .readDst a ha
    · cases (if_neg ha).symm.trans h
  | writeDst a b =>
    by_cases ha : a < Config.addressSpace
    · cases (if_pos ha).symm.trans h
      exact .writeDst a b ha
    · cases (if_neg ha).symm.trans h
  | supplySrc ws =>
    by_cases hw : 8 * ws.length ≤ Config.addressSpace
    · cases (if_pos hw).symm.trans h
      exact .supplySrc ws hw
    · cases (if_neg hw).symm.trans h
  | resetUnit =>
    cases h
    exact .resetUnit
  | breach b => cases h

/-- A step is idle or performs the first move of the host's list at the state without it. -/
theorem step_cases {s t : State} (h : step s = .next t) :
    (s.moves = [] ∧ t = s) ∨
    ∃ mv rest, s.moves = mv :: rest ∧ MoveEffect { s with moves := rest } mv t := by
  cases hm : s.moves with
  | nil =>
    rw [step_nil hm] at h
    cases h
    exact .inl ⟨rfl, rfl⟩
  | cons mv rest =>
    rw [step_cons hm] at h
    exact .inr ⟨mv, rest, rfl, performMove_effect h⟩

theorem MoveEffect.hvalid {s t : State} {mv : HostMove} (h : MoveEffect s mv t) (hmv : mv ≠ .resetUnit)
    (hv : s.hvalid = true) : t.hvalid = true := by
  cases h with
  | operand r v _ => rwa [State.writeReg_hvalid]
  | command v i _ _ hexec => exact exec_hvalid hexec hv
  | resetUnit => exact absurd rfl hmv
  | illegal | readReg | readDst | writeDst | supplySrc => exact hv

/-- Settles O21: of the operations and the host's moves, only the reset event clears the flag. -/
theorem headerStaysValidUntilReset : Obligations.HeaderStaysValidUntilReset := by
  refine ⟨fun i s t h => exec_hvalid h, fun s t h hv hreset => ?_⟩
  rcases step_cases h with ⟨-, rfl⟩ | ⟨mv, rest, hmoves, heffect⟩
  · exact hv
  · refine heffect.hvalid (fun hmv => hreset ?_) hv
    rw [hmoves, hmv, List.head?_cons]

/-! DST -/

/-- `DecodeResolve` answers with the typed count (43_payload_decode.md R123). -/
theorem decodeResolve_count {h : Header} {sz : Nat} {r : Resolved} (hr : decodeResolve h sz = .ok r) :
    r.n = typedCount h sz := by
  unfold decodeResolve at hr
  repeat' split at hr
  all_goals cases hr
  all_goals rfl

/-- What the body of an operation can leave in DST: all of it as it was, the expansion, or the decoded payload, and then
`COUNT` tells how many elements that is (10_state.md R35). -/
inductive BodyDst (s : State) : Instr → State → Prop
  | kept {i : Instr} {t : State} : t.dst = s.dst → BodyDst s i t
  | expanded {e : BitVec 4} {t : State} : legalEsz e →
      t.dst = expandInto s.src s.dst s.srcOff.toNat s.pal0 s.pal1 e.toNat s.regN.toNat → BodyDst s (.expand e) t
  | decoded {e : BitVec 4} {w : Bool} {i : Instr} {r : Resolved} {t : State} : i = .decBuf e w ∨ i = .decFix e w →
      legalEsz e → decodeResolve s.header e.toNat = .ok r → t.dst = decodeInto s e.toNat r → t.count.toNat = r.n →
      BodyDst s i t

theorem decodeDeliver_dst {e : BitVec 4} {w : Bool} {i : Instr} (hi : i = .decBuf e w ∨ i = .decFix e w)
    (he : legalEsz e) {s : State} {r : Resolved} (hr : decodeResolve s.header e.toNat = .ok r) :
    BodyDst s i (decodeDeliver s e.toNat r) := by
  rcases decodeDeliver_cases s e.toNat r with ⟨-, h⟩ | ⟨-, h⟩ <;> rw [h]
  · exact .kept rfl
  · refine .decoded hi he hr rfl ?_
    have hlt := typedCount_lt s.header e.toNat
    rw [← decodeResolve_count hr] at hlt
    exact (BitVec.toNat_ofNat ..).trans (Nat.mod_eq_of_lt hlt)

/-- An operation whose row lists no write of DST leaves it as it was, on success and on a fault. -/
theorem bodyOf_dst_of_not_writesDst {i : Instr} (hi : writesDst i = false) (s : State) :
    (bodyOf i s).dst = s.dst := by
  by_cases hp : i = .parse
  · rw [hp, bodyOf]
    simp only [parseStep_keeps s]
  · rcases body_cases i hp s with ⟨e, -, h⟩ | h
    · rw [h, State.raise_dst]
    · exact h.dst hi

theorem bodyOf_dst (i : Instr) (s : State) : BodyDst s i (bodyOf i s) := by
  cases i with
  | parse | isimg | getw | geth | cntImg | cntT => exact .kept (bodyOf_dst_of_not_writesDst rfl s)
  | expand e =>
    by_cases he : legalEsz e
    · rw [bodyOf_expand he]
      rcases expandStep_cases e.toNat s with ⟨-, h⟩ | ⟨-, -, h⟩ | ⟨-, -, h⟩ <;> rw [h]
      · exact .kept rfl
      · exact .kept rfl
      · exact .expanded he rfl
    · rw [bodyOf_expand_illegal he]
      exact .kept rfl
  | decBuf e w =>
    by_cases he : legalEsz e
    · rw [bodyOf_decBuf he]
      rcases decBufStep_cases e.toNat s with ⟨-, h⟩ | ⟨-, c, -, h⟩ | ⟨-, r, hr, ⟨-, h⟩ | ⟨-, h⟩⟩ <;> rw [h]
      · exact .kept rfl
      · exact .kept rfl
      · exact .kept rfl
      · exact decodeDeliver_dst (.inl rfl) he hr
    · rw [bodyOf_decBuf_illegal he]
      exact .kept rfl
  | decFix e w =>
    by_cases he : legalEsz e
    · rw [bodyOf_decFix he]
      rcases decFixStep_cases e.toNat s with
        ⟨-, h⟩ | ⟨-, c, -, h⟩ | ⟨-, r, hr, ⟨-, h⟩ | ⟨-, -, h⟩ | ⟨-, -, h⟩⟩ <;> rw [h]
      · exact .kept rfl
      · exact .kept rfl
      · exact .kept rfl
      · exact .kept rfl
      · exact decodeDeliver_dst (.inr rfl) he hr
    · rw [bodyOf_decFix_illegal he]
      exact .kept rfl

/-- A body starts with the DST of the state before the operation: the PARSE half of a W form does not write it. -/
theorem bodyStart_dst {w : Bool} {s p : State} (h : BodyStart w s p) : p.dst = s.dst := by
  rcases bodyStart_cases h with ⟨-, rfl⟩ | ⟨-, rfl, -⟩
  · rfl
  · simp only [parseStep_keeps s]

/-- Where a byte of DST can have changed, the operation succeeded and its body ran (60_exceptions.md R141). -/
theorem exec_dst_cases {i : Instr} {s t : State} (h : exec i s = .next t) :
    t.dst = s.dst ∨ (t.err = .ok ∧ ∃ p, BodyStart i.wBit s p ∧ t = bodyOf i p) := by
  rcases exec_cases h with ⟨-, rfl⟩ | ⟨-, rfl⟩ | ⟨-, -, -, -, rfl⟩ | ⟨hi, -, p, hp, ht⟩
  · exact .inl rfl
  · exact .inl (by simp only [parseStep_keeps s])
  · exact .inl (by simp only [parseStep_keeps s])
  · rcases body_cases i hi p with ⟨e, -, hb⟩ | hb
    · exact .inl (by rw [ht, hb, State.raise_dst, bodyStart_dst hp])
    · refine .inr ⟨?_, p, hp, ht⟩
      rw [ht, hb.rest]

/-- EXPAND leaves DST alone from byte `N * ESZ` on (20_memory.md R51). -/
theorem bodyOf_expand_tail {e : BitVec 4} {s : State} {a : Nat} (ha : s.regN.toNat * e.toNat ≤ a) :
    Memory.read (bodyOf (.expand e) s).dst a = Memory.read s.dst a := by
  cases bodyOf_dst (.expand e) s with
  | kept h => rw [h]
  | expanded _ h => rw [h, read_expandInto, if_neg (Nat.not_lt.mpr ha)]
  | decoded hi => simp only [reduceCtorEq, or_self] at hi

/-- A decode leaves DST alone from byte `COUNT * ESZ` on (R51). -/
theorem bodyOf_decode_tail {e : BitVec 4} {w : Bool} {i : Instr} (hi : i = .decBuf e w ∨ i = .decFix e w) {s : State}
    {a : Nat} (ha : (bodyOf i s).count.toNat * e.toNat ≤ a) :
    Memory.read (bodyOf i s).dst a = Memory.read s.dst a := by
  cases bodyOf_dst i s with
  | kept h => rw [h]
  | expanded => simp only [reduceCtorEq, or_self] at hi
  | @decoded e' w' _ r _ hi' he hr hdst hcount =>
    obtain rfl : e = e' := by
      rcases hi with rfl | rfl <;> rcases hi' with h | h <;> cases h <;> rfl
    rw [hcount] at ha
    rw [hdst, read_decodeInto s hr he.1, if_neg (Nat.not_lt.mpr ha)]

/-! The write columns -/

theorem exec_header_of_not_writesHeader {i : Instr} {s t : State} (h : exec i s = .next t)
    (hi : writesHeader i = false) :
    t.header = s.header ∧ t.hvalid = s.hvalid ∧ t.dimv = s.dimv ∧ t.palv = s.palv := by
  obtain ⟨hparse, hw⟩ : i ≠ .parse ∧ i.wBit = false := by simpa [writesHeader] using hi
  rcases exec_cases h with ⟨-, rfl⟩ | ⟨hp, -⟩ | ⟨-, -, hw', -⟩ | ⟨-, -, p, hp, rfl⟩
  · exact ⟨rfl, rfl, rfl, rfl⟩
  · exact absurd hp hparse
  · exact absurd (hw.symm.trans hw') nofun
  · rcases bodyStart_cases hp with ⟨-, rfl⟩ | ⟨hw', -⟩
    · simp only [body_keeps i hparse p, and_self]
    · exact absurd (hw.symm.trans hw') nofun

theorem exec_result_of_not_writesResult {i : Instr} {s t : State} (h : exec i s = .next t)
    (hi : writesResult i = false) : t.result = s.result ∧ t.rvalid = s.rvalid := by
  refine exec_related (R := fun s t => t.result = s.result ∧ t.rvalid = s.rvalid)
    (fun _ _ _ hp ht => ⟨ht.1.trans hp.1, ht.2.trans hp.2⟩) (fun _ _ => ⟨rfl, rfl⟩)
    (fun s => by simp only [parseStep_keeps s, and_self]) (fun hp s => ?_) h
  rcases body_cases i hp s with ⟨e, -, hb⟩ | hb
  · rw [hb]
    exact ⟨rfl, rfl⟩
  · exact hb.result hi

theorem exec_count_of_not_writesCount {i : Instr} {s t : State} (h : exec i s = .next t)
    (hi : writesCount i = false) : t.count = s.count := by
  refine exec_related (R := fun s t => t.count = s.count) (fun _ _ _ hp ht => ht.trans hp) (fun _ _ => rfl)
    (fun s => by simp only [parseStep_keeps s]) (fun hp s => ?_) h
  rcases body_cases i hp s with ⟨e, -, hb⟩ | hb
  · rw [hb, State.raise_count]
  · exact hb.count hi

theorem exec_dst_of_not_writesDst {i : Instr} {s t : State} (h : exec i s = .next t) (hi : writesDst i = false) :
    t.dst = s.dst :=
  exec_related (R := fun s t => t.dst = s.dst) (fun _ _ _ hp ht => ht.trans hp) (fun _ _ => rfl)
    (fun s => by simp only [parseStep_keeps s]) (fun _ s => bodyOf_dst_of_not_writesDst hi s) h

theorem exec_dst_of_fault {i : Instr} {s t : State} (h : exec i s = .next t) (ht : t.err ≠ .ok) : t.dst = s.dst :=
  (exec_dst_cases h).resolve_right fun hok => ht hok.1

theorem exec_expand_tail {e : BitVec 4} {s t : State} (h : exec (.expand e) s = .next t) {a : Nat}
    (ha : s.regN.toNat * e.toNat ≤ a) : Memory.read t.dst a = Memory.read s.dst a := by
  rcases exec_dst_cases h with hdst | ⟨-, p, hp, rfl⟩
  · rw [hdst]
  · rcases bodyStart_cases hp with ⟨-, rfl⟩ | ⟨hw, -⟩
    · exact bodyOf_expand_tail ha
    · cases hw

theorem exec_decode_tail {e : BitVec 4} {w : Bool} {i : Instr} (hi : i = .decBuf e w ∨ i = .decFix e w) {s t : State}
    (h : exec i s = .next t) {a : Nat} (ha : t.count.toNat * e.toNat ≤ a) :
    Memory.read t.dst a = Memory.read s.dst a := by
  rcases exec_dst_cases h with hdst | ⟨-, p, hp, rfl⟩
  · rw [hdst]
  · rw [bodyOf_decode_tail hi ha, bodyStart_dst hp]

/-- Settles O46: one column of the table after the other. -/
theorem operationsWriteOnlyWhatIsListed : Obligations.OperationsWriteOnlyWhatIsListed := fun i _ _ h =>
  ⟨exec_header_of_not_writesHeader h, exec_result_of_not_writesResult h, exec_count_of_not_writesCount h,
    fun hi a => by rw [exec_dst_of_not_writesDst h hi], fun ht a => by rw [exec_dst_of_fault h ht],
    fun e he a ha => by subst he; exact exec_expand_tail h ha,
    fun e w hi _ a ha => exec_decode_tail hi h ha⟩

/-! The invariant -/

/-- Settles O19: the flags and registers are all 0 and both spaces are empty. -/
theorem resetMeetsTheInvariant : Obligations.ResetMeetsTheInvariant :=
  ⟨rfl, rfl, fun _ => ⟨rfl, rfl⟩, fun _ => ⟨rfl, rfl⟩, fun _ => rfl, fun _ => rfl, Memory.wf_nil, Memory.wf_nil⟩

theorem raise_inv {s : State} (h : s.Inv) (e : ErrCode) : (s.raise e).Inv := h

/-- The Header that PARSE commits is the header words' Header of its kind (40_header_unpack.md R89). -/
theorem unpackHeader_ok {n : BitVec 32} {m : Memory} {h : Header} (hu : (unpackHeader n m).2 = .ok h) :
    ∃ k, h = headerOfWords k m := by
  unfold unpackHeader at hu
  repeat' split at hu
  all_goals cases hu
  all_goals exact ⟨_, rfl⟩

/-- A kind without a width and a height has both fields 0 (R89). -/
theorem headerOfWords_of_not_dimv {k : Kind} (h : dimvOf k = false) (m : Memory) :
    (headerOfWords k m).width = 0 ∧ (headerOfWords k m).height = 0 := by
  cases k with
  | generic => exact ⟨rfl, rfl⟩
  | image | dualColor => cases h

/-- A kind without colours has both fields 0 (R89). -/
theorem headerOfWords_of_not_palv {k : Kind} (h : palvOf k = false) (m : Memory) :
    (headerOfWords k m).color0 = 0 ∧ (headerOfWords k m).color1 = 0 := by
  cases k with
  | generic | image => exact ⟨rfl, rfl⟩
  | dualColor => cases h

/-- PARSE keeps the invariant: what it commits sets every flag of the header group by the kind (R89, R30 (b), (c)). -/
theorem parseStep_inv {s : State} (hinv : s.Inv) : (parseStep s).Inv := by
  rcases parseStep_cases s with ⟨e, -, h⟩ | ⟨hd, hu, h⟩ <;> rw [h]
  · exact hinv
  · obtain ⟨k, rfl⟩ := unpackHeader_ok hu
    obtain ⟨-, -, -, -, hresult, -, hsrc, hdst⟩ := hinv
    refine ⟨rfl, rfl, fun hdim => headerOfWords_of_not_dimv ?_ _, fun hpal => headerOfWords_of_not_palv ?_ _,
      hresult, nofun, hsrc, hdst⟩
    · rwa [State.finish_dimv, State.commitHeader_dimv, headerOfWords_kind] at hdim
    · rwa [State.finish_palv, State.commitHeader_palv, headerOfWords_kind] at hpal

/-- The elements that a 32-bit count and a legal size give fit the index range (20_memory.md R51). -/
theorem elements_in_addressSpace {n sz : Nat} (hn : n < 2 ^ 32) (hsz : sz ≤ Config.eszMax) :
    n * sz ≤ Config.addressSpace :=
  calc n * sz ≤ 2 ^ 32 * Config.eszMax := Nat.mul_le_mul hn.le hsz
    _ = Config.addressSpace := rfl

theorem wf_decodeInto {s : State} (hwf : Memory.wf s.dst) {sz : Nat} {r : Resolved}
    (hr : r.n * sz ≤ Config.addressSpace) : Memory.wf (decodeInto s sz r) := by
  unfold decodeInto
  split
  · exact wf_expandInto s.src hwf _ _ _ _ hr
  · exact wf_copyInto s.src hwf _ hr
  · exact wf_copyInto s.src hwf _ hr

/-- No body breaks the canonical form of DST. -/
theorem bodyOf_wf_dst (i : Instr) {s : State} (hwf : Memory.wf s.dst) : Memory.wf (bodyOf i s).dst := by
  cases bodyOf_dst i s with
  | kept h => rwa [h]
  | expanded he h =>
    rw [h]
    exact wf_expandInto s.src hwf _ _ _ _ (elements_in_addressSpace s.regN.isLt he.2)
  | decoded _ he hr h hcount =>
    rw [h]
    refine wf_decodeInto hwf (elements_in_addressSpace ?_ he.2)
    rw [← hcount]
    exact BitVec.isLt _

/-- A body keeps R30 (e): where it leaves `RVALID` 0, it leaves `RESULT` 0. -/
theorem bodyOf_noResult {i : Instr} (hi : i ≠ .parse) {s : State} (hs : s.rvalid = false → s.result = 0) :
    (bodyOf i s).rvalid = false → (bodyOf i s).result = 0 := by
  rcases body_cases i hi s with ⟨e, -, h⟩ | h
  · rwa [h]
  · cases hw : writesResult i with
    | true => exact h.noResult hw
    | false =>
      obtain ⟨hresult, hrvalid⟩ := h.result hw
      rwa [hresult, hrvalid]

/-- A body keeps the invariant: it writes neither the header group nor SRC. -/
theorem bodyOf_inv {i : Instr} (hi : i ≠ .parse) {s : State} (hinv : s.Inv) : (bodyOf i s).Inv := by
  obtain ⟨hdim, hpal, hnodim, hnopal, hresult, hheader, hsrc, hdst⟩ := hinv
  obtain ⟨-, -, -, -, -, -, hksrc, -, -, hkheader, hkhvalid, hkdimv, hkpalv⟩ := body_keeps i hi s
  unfold State.Inv
  rw [hksrc, hkheader, hkhvalid, hkdimv, hkpalv]
  exact ⟨hdim, hpal, hnodim, hnopal, bodyOf_noResult hi hresult, hheader, hsrc, bodyOf_wf_dst i hdst⟩

theorem exec_inv {i : Instr} {s t : State} (h : exec i s = .next t) : s.Inv → t.Inv :=
  exec_related (R := fun s t => s.Inv → t.Inv) (fun _ _ _ hp ht hs => ht (hp hs)) (fun _ e hs => raise_inv hs e)
    (fun _ => parseStep_inv) (fun hi _ => bodyOf_inv hi) h

theorem writeReg_inv {s : State} (hinv : s.Inv) (r : BitVec 5) (v : BitVec 64) : (s.writeReg r v).Inv := by
  rw [State.writeReg_eq]
  exact hinv

/-- The reset event gives the registers of `State.reset` and leaves the two spaces alone (R33). -/
theorem resetUnit_inv {s : State} (hinv : s.Inv) : s.resetUnit.Inv := by
  obtain ⟨hdim, hpal, hnodim, hnopal, hresult, hheader, -, -⟩ := resetMeetsTheInvariant
  obtain ⟨-, -, -, -, -, -, hsrc, hdst⟩ := hinv
  exact ⟨hdim, hpal, hnodim, hnopal, hresult, hheader, hsrc, hdst⟩

/-- Every move of the host keeps the invariant. -/
theorem MoveEffect.inv {s t : State} {mv : HostMove} (h : MoveEffect s mv t) (hinv : s.Inv) : t.Inv := by
  cases h with
  | operand r v _ => exact writeReg_inv hinv r v
  | command v i _ _ hexec => exact exec_inv hexec hinv
  | illegal v _ => exact raise_inv hinv _
  | readReg | readDst => exact hinv
  | writeDst a b ha =>
    obtain ⟨hdim, hpal, hnodim, hnopal, hresult, hheader, hsrc, hdst⟩ := hinv
    exact ⟨hdim, hpal, hnodim, hnopal, hresult, hheader, hsrc, Memory.wf_write hdst ha b⟩
  | supplySrc ws hws =>
    obtain ⟨hdim, hpal, hnodim, hnopal, hresult, hheader, -, hdst⟩ := hinv
    have hfit : 0 + 8 * ws.length ≤ Config.addressSpace := by rwa [Nat.zero_add]
    exact ⟨hdim, hpal, hnodim, hnopal, hresult, hheader, Memory.wf_loadWords Memory.wf_nil ws hfit, hdst⟩
  | resetUnit => exact resetUnit_inv hinv

/-- Settles O20: taking a move off the list touches nothing the invariant speaks of, and then the move keeps it. -/
theorem stepKeepsTheInvariant : Obligations.StepKeepsTheInvariant := by
  intro s t hinv h
  rcases step_cases h with ⟨-, rfl⟩ | ⟨mv, rest, -, heffect⟩
  · exact hinv
  · exact heffect.inv hinv

end Sys2Proof.Machine
end

section
/-! PROOFS. The memory statements (20_memory.md): the host's accesses to the two byte spaces, the two views of a header
word, the span of a well-formed sequence, and R54, that the recorded reads are all of SRC that an operation depends on.
R54 is a replay argument: beside a run from `s` stands the run from `s` with another SRC, and every shared operation of
the model keeps the two alike as long as the bytes it records are the same (`Replays`). -/

namespace Sys2Proof.Machine

/-! The host's accesses to the byte spaces -/

theorem hostWriteDst_of_lt {a : Nat} (ha : a < Config.addressSpace) (b : Byte) (s : State) :
    hostWriteDst a b s = .next { s with dst := Memory.write s.dst a b } := if_pos ha

theorem hostSupplySrc_of_le {ws : List SrcWord} (hw : 8 * ws.length ≤ Config.addressSpace) (s : State) :
    hostSupplySrc ws s = .next { s with src := Memory.loadWords [] 0 ws } := if_pos hw

theorem hostReadDst_of_le {a : Nat} (ha : Config.addressSpace ≤ a) (s : State) :
    hostReadDst a s = .fault .outsideAddressSpace := if_neg (Nat.not_lt.mpr ha)

theorem hostWriteDst_of_le {a : Nat} (ha : Config.addressSpace ≤ a) (b : Byte) (s : State) :
    hostWriteDst a b s = .fault .outsideAddressSpace := if_neg (Nat.not_lt.mpr ha)

theorem hostSupplySrc_of_lt {ws : List SrcWord} (hw : Config.addressSpace < 8 * ws.length) (s : State) :
    hostSupplySrc ws s = .fault .outsideAddressSpace := if_neg (Nat.not_le.mpr hw)

/-- Settles O11: the step performs the move, and each access makes its range check first. -/
theorem movesOutsideTheContractStopByName : Obligations.MovesOutsideTheContractStopByName := fun _ _ =>
  ⟨fun _ ha hmoves => (step_cons hmoves).trans (hostReadDst_of_le ha _),
    fun _ b ha hmoves => (step_cons hmoves).trans (hostWriteDst_of_le ha b _),
    fun _ hw hmoves => (step_cons hmoves).trans (hostSupplySrc_of_lt hw _),
    fun _ hmoves => step_cons hmoves⟩

/-- Settles O16: the step writes the byte, and `Memory.read_write` says what then reads back. -/
theorem hostWritesOfDestination : Obligations.HostWritesOfDestination := fun s a b _ ha hmoves =>
  ⟨_, (step_cons hmoves).trans (hostWriteDst_of_lt ha b _), Memory.read_write s.dst a b⟩

/-- A sequence laid out in an empty space reads back as byte `j` of word `k` at index `8k + j` (R40, R46). -/
theorem Memory.read_loadWords_byte {ws : List SrcWord} {k : Nat} {w : SrcWord} (hk : ws[k]? = some w) {j : Nat}
    (hj : j < 8) : Memory.read (Memory.loadWords [] 0 ws) (8 * k + j) = byteOf w j := by
  obtain ⟨hlen, -⟩ := List.getElem?_eq_some_iff.mp hk
  have hword : (8 * k + j - 0) / 8 = k := by omega
  have hbyte : (8 * k + j - 0) % 8 = j := by omega
  rw [Memory.read_loadWords, if_pos (by omega), hword, hbyte, List.getD_eq_getElem?_getD, hk, Option.getD_some]

/-- No byte is listed beyond a sequence laid out in an empty space. -/
theorem Memory.read_loadWords_beyond {ws : List SrcWord} {x : Nat} (hx : 8 * ws.length ≤ x) :
    Memory.read (Memory.loadWords [] 0 ws) x = Config.unlistedByte := by
  rw [Memory.read_loadWords, if_neg (by omega), Memory.read_nil]

/-- Settles O17: the step lays the sequence out in an empty space, which reads back word by word. -/
theorem suppliedSourceReadsBack : Obligations.SuppliedSourceReadsBack := fun _ _ _ hlen hmoves =>
  ⟨_, (step_cons hmoves).trans (hostSupplySrc_of_le hlen _), fun _ _ hk _ hj => Memory.read_loadWords_byte hk hj,
    fun _ hx => Memory.read_loadWords_beyond hx⟩

/-! The two views of a header word -/

/-- A slice of whole bytes of SRC word `k` is the little-endian assembly of those bytes (R47, R49). -/
theorem Memory.word_slice (m : Memory) (k : Nat) {o n : Nat} (h : o + n ≤ 8) :
    (Memory.word m k).extractLsb' (8 * o) (8 * n) = BitVec.ofNat (8 * n) (Memory.readLE m (8 * k + o) n) := by
  rw [← Memory.word_slice_toNat m k h, BitVec.ofNat_toNat, BitVec.setWidth_eq]

/-! The sums that R47 writes out -/

theorem Memory.readLE_two (m : Memory) (a : Nat) :
    Memory.readLE m a 2 = (Memory.read m a).toNat + 256 * (Memory.read m (a + 1)).toNat := by
  simp [Memory.readLE]

theorem Memory.readLE_four (m : Memory) (a : Nat) :
    Memory.readLE m a 4 =
      (Memory.read m a).toNat + 256 * (Memory.read m (a + 1)).toNat + 65536 * (Memory.read m (a + 2)).toNat +
        16777216 * (Memory.read m (a + 3)).toNat := by
  simp [Memory.readLE]

/-! Each header field as the assembly of its bytes (R47) -/

theorem fieldBpp_eq_readLE (m : Memory) : fieldBpp (Memory.word m 0) = BitVec.ofNat 8 (Memory.readLE m 1 1) :=
  Memory.word_slice m 0 (o := 1) (n := 1) (by omega)

theorem fieldBitCount_eq_readLE (m : Memory) :
    fieldBitCount (Memory.word m 0) = BitVec.ofNat 32 (Memory.readLE m 4 4) :=
  Memory.word_slice m 0 (o := 4) (n := 4) (by omega)

theorem fieldWidth_eq_readLE (m : Memory) : fieldWidth (Memory.word m 1) = BitVec.ofNat 16 (Memory.readLE m 8 2) :=
  Memory.word_slice m 1 (o := 0) (n := 2) (by omega)

theorem fieldHeight_eq_readLE (m : Memory) :
    fieldHeight (Memory.word m 1) = BitVec.ofNat 16 (Memory.readLE m 10 2) :=
  Memory.word_slice m 1 (o := 2) (n := 2) (by omega)

theorem fieldColor0_eq_readLE (m : Memory) :
    fieldColor0 (Memory.word m 2) = BitVec.ofNat 32 (Memory.readLE m 16 4) :=
  Memory.word_slice m 2 (o := 0) (n := 4) (by omega)

theorem fieldColor1_eq_readLE (m : Memory) :
    fieldColor1 (Memory.word m 2) = BitVec.ofNat 32 (Memory.readLE m 20 4) :=
  Memory.word_slice m 2 (o := 4) (n := 4) (by omega)

/-- An assembly of `n` bytes loses nothing in a value of `8n` bits. -/
theorem Memory.toNat_ofNat_readLE (m : Memory) (a n : Nat) :
    (BitVec.ofNat (8 * n) (Memory.readLE m a n)).toNat = Memory.readLE m a n := by
  have hlt := Memory.readLE_lt m a n
  rw [show 256 ^ n = 2 ^ (8 * n) from (Nat.pow_mul 2 8 n).symm] at hlt
  exact (BitVec.toNat_ofNat ..).trans (Nat.mod_eq_of_lt hlt)

theorem headerOfWords_eq_headerOfBytes (k : Kind) (m : Memory) : headerOfWords k m = headerOfBytes k m := by
  cases k <;>
    simp only [headerOfWords, headerGeneric, headerImage, headerDual, headerOfBytes, Header.zero, Kind.isImage,
      fieldBpp_eq_readLE, fieldBitCount_eq_readLE, fieldWidth_eq_readLE, fieldHeight_eq_readLE,
      fieldColor0_eq_readLE, fieldColor1_eq_readLE, reduceCtorEq, Bool.false_eq_true, if_true, if_false]

/-- Settles O53: a field is the assembly of its bytes, and the assembly is the sum of R47. -/
theorem mixedWidthViewsAgree : Obligations.MixedWidthViewsAgree := by
  intro m b hb
  have two (a : Nat) : (BitVec.ofNat 16 (Memory.readLE m a 2)).toNat = b a + 256 * b (a + 1) := by
    rw [Memory.toNat_ofNat_readLE m a 2, Memory.readLE_two, hb, hb]
  have four (a : Nat) : (BitVec.ofNat 32 (Memory.readLE m a 4)).toNat =
      b a + 256 * b (a + 1) + 65536 * b (a + 2) + 16777216 * b (a + 3) := by
    rw [Memory.toNat_ofNat_readLE m a 4, Memory.readLE_four, hb, hb, hb, hb]
  rw [fieldKind_word, fieldBpp_word, fieldBitCount_eq_readLE, fieldWidth_eq_readLE, fieldHeight_eq_readLE,
    fieldColor0_eq_readLE, fieldColor1_eq_readLE]
  exact ⟨(hb 0).symm, (hb 1).symm, four 4, two 8, two 10, four 16, four 20, (headerOfWords_eq_headerOfBytes · m)⟩

/-! Well-formed sequences -/

/-- `ceil8(v)` words hold `v` bytes (00_scope.md R10). -/
theorem le_eight_mul_ceil8 (v : Nat) : v ≤ 8 * ceil8 v := by
  unfold ceil8
  omega

/-- A decode reads no payload byte beyond the `ceil8(bit_count)` meaningful ones (R44). -/
theorem payloadSpan_le {h : Header} {sz n : Nat} (hr : Resolves h sz n) :
    payloadSpan h sz n ≤ ceil8 h.bitCount.toNat := by
  obtain ⟨-, hn⟩ := hr
  have hcopy : h.bitCount.toNat / 8 / sz * sz ≤ ceil8 h.bitCount.toNat :=
    (Nat.div_mul_le_self ..).trans (Nat.div_le_div_right (Nat.le_add_right ..))
  unfold payloadSpan
  cases hk : h.kind <;> simp only [hk] at hn ⊢
  case generic => rwa [hn]
  case image => rwa [hn]
  case dualColor =>
    obtain ⟨-, -, -, -, hplane⟩ := hn
    rw [← hplane, ceil8]

/-- The span of a decode of a well-formed sequence passes the check of R42 (R44, R45). -/
theorem spanInSource_of_wellFormed {s : State} (hwf : SequenceWellFormed s) {sz : Nat} (hsz : 1 ≤ sz) {r : Resolved}
    (hr : decodeResolve s.header sz = .ok r) : spanInSource s r.off r.span = true := by
  obtain ⟨hres, hoff, hspan⟩ := (decodeResolve_eq_ok hsz).mp hr
  have hle := payloadSpan_le hres
  unfold SequenceWellFormed at hwf
  rw [spanInSource_iff, hoff, hspan, Kind.payloadOffset]
  right
  calc 8 * s.header.kind.headerWords + payloadSpan s.header sz r.n
      ≤ 8 * s.header.kind.headerWords + 8 * ceil8 (ceil8 s.header.bitCount.toNat) :=
        Nat.add_le_add_left (hle.trans (le_eight_mul_ceil8 _)) _
    _ ≤ 8 * s.srcLen.toNat := by omega

theorem decodeDeliver_err_of_wellFormed {s : State} (hwf : SequenceWellFormed s) {sz : Nat} (hsz : 1 ≤ sz)
    {r : Resolved} (hr : decodeResolve s.header sz = .ok r) : (decodeDeliver s sz r).err ≠ .sourceRange := by
  have hspan := spanInSource_of_wellFormed hwf hsz hr
  rcases decodeDeliver_cases s sz r with ⟨hno, -⟩ | ⟨-, h⟩
  · exact absurd (hspan.symm.trans hno) nofun
  · rw [h]
    nofun

/-- No header check of R123 raises `SourceRange`. -/
theorem decodeResolve_ne_error_sourceRange {h : Header} {sz : Nat} (hsz : 1 ≤ sz) :
    decodeResolve h sz ≠ .error .sourceRange := fun he => (decodeResolve_eq_error hsz).mp he

theorem decBufStep_err_of_wellFormed {s : State} (hwf : SequenceWellFormed s) {sz : Nat} (hsz : 1 ≤ sz) :
    (decBufStep sz s).err ≠ .sourceRange := by
  rcases decBufStep_cases sz s with ⟨-, h⟩ | ⟨-, c, hc, h⟩ | ⟨-, r, hr, ⟨-, h⟩ | ⟨-, h⟩⟩ <;> rw [h]
  · nofun
  · rintro rfl
    exact decodeResolve_ne_error_sourceRange hsz hc
  · nofun
  · exact decodeDeliver_err_of_wellFormed hwf hsz hr

theorem decFixStep_err_of_wellFormed {s : State} (hwf : SequenceWellFormed s) {sz : Nat} (hsz : 1 ≤ sz) :
    (decFixStep sz s).err ≠ .sourceRange := by
  rcases decFixStep_cases sz s with
    ⟨-, h⟩ | ⟨-, c, hc, h⟩ | ⟨-, r, hr, ⟨-, h⟩ | ⟨-, -, h⟩ | ⟨-, -, h⟩⟩ <;> rw [h]
  · nofun
  · rintro rfl
    exact decodeResolve_ne_error_sourceRange hsz hc
  · nofun
  · nofun
  · exact decodeDeliver_err_of_wellFormed hwf hsz hr

/-- A well-formed operation does what its body does where the body starts (40_header_unpack.md R96). -/
theorem exec_of_bodyStart {i : Instr} (hi : i.wellFormed = true) {s p : State} (h : BodyStart i.wBit s p) :
    exec i s = .next (bodyOf i p) := by
  rw [exec_eq_wForm hi, wForm_of_bodyStart h]

/-- A decode, plain or W, whose body starts at a well-formed sequence does not fault `SourceRange`. -/
theorem decode_err_of_wellFormed {e : BitVec 4} {w : Bool} {i : Instr} (hi : i = .decBuf e w ∨ i = .decFix e w)
    {s p t : State} (hp : BodyStart w s p) (hwf : SequenceWellFormed p) (h : exec i s = .next t) :
    t.err ≠ .sourceRange := by
  by_cases he : legalEsz e
  · rcases hi with rfl | rfl
    · cases (exec_of_bodyStart (i := .decBuf e w) (decide_eq_true he) hp).symm.trans h
      rw [bodyOf_decBuf he]
      exact decBufStep_err_of_wellFormed hwf he.1
    · cases (exec_of_bodyStart (i := .decFix e w) (decide_eq_true he) hp).symm.trans h
      rw [bodyOf_decFix he]
      exact decFixStep_err_of_wellFormed hwf he.1
  · have hill : i.wellFormed = false := by
      rcases hi with rfl | rfl <;> exact decide_eq_false he
    cases (exec_ill_formed hill s).symm.trans h
    nofun

/-- Settles O40: the body of a plain decode starts at the state itself, that of a W form after its PARSE. -/
theorem wellFormedSequencesStayInRange : Obligations.WellFormedSequencesStayInRange :=
  ⟨fun _ _ _ _ hi hwf h => decode_err_of_wellFormed hi (.inl ⟨rfl, rfl⟩) hwf h,
    fun _ _ _ _ _ hi hparse hok hwf h => decode_err_of_wellFormed hi (.inr ⟨rfl, hparse, hok⟩) hwf h⟩

/-! What is read of SRC, in two contents with the same bytes there -/

/-- The contents `m` and `m'` of SRC have the same bytes in the spans `reads`. -/
def SameBytes (reads : List SrcRead) (m m' : Memory) : Prop :=
  ∀ r ∈ reads, ∀ a, r.addr ≤ a → a < r.addr + r.len → Memory.read m' a = Memory.read m a

theorem SameBytes.append {reads reads' : List SrcRead} {m m' : Memory} (h : SameBytes (reads ++ reads') m m') :
    SameBytes reads m m' ∧ SameBytes reads' m m' :=
  ⟨fun r hr => h r (List.mem_append_left _ hr), fun r hr => h r (List.mem_append_right _ hr)⟩

/-- The record of a span covers all of its bytes; an empty span has none (R42). -/
theorem SameBytes.read_eq {a n : Nat} {m m' : Memory} (h : SameBytes (spanReads a n) m m') {x : Nat} (hx : x < n) :
    Memory.read m' (a + x) = Memory.read m (a + x) :=
  h ⟨a, n⟩ (mem_spanReads.mpr ⟨by omega, rfl⟩) _ (Nat.le_add_right a x) (Nat.add_lt_add_left hx a)

theorem Memory.readLE_congr {m m' : Memory} {a n : Nat}
    (h : ∀ x < n, Memory.read m' (a + x) = Memory.read m (a + x)) : Memory.readLE m' a n = Memory.readLE m a n := by
  induction n with
  | zero => rfl
  | succ n ih => rw [Memory.readLE, Memory.readLE, ih fun x hx => h x (by omega), h n (by omega)]

theorem SameBytes.word_eq {reads : List SrcRead} {m m' : Memory} (h : SameBytes reads m m') {k : Nat}
    (hk : headerRead k ∈ reads) : Memory.word m' k = Memory.word m k := by
  have hbytes : ∀ x < 8, Memory.read m' (8 * k + x) = Memory.read m (8 * k + x) := fun x hx =>
    h _ hk _ (Nat.le_add_right (8 * k) x) (Nat.add_lt_add_left hx (8 * k))
  rw [Memory.word, Memory.word, Memory.readLE_congr hbytes]

/-- A Header of kind `k` is made of the first `HW(k)` words (30_encoding.md R66). -/
theorem SameBytes.headerOfWords_eq {reads : List SrcRead} {m m' : Memory} (h : SameBytes reads m m') {k : Kind}
    (hreads : ∀ j < k.headerWords, headerRead j ∈ reads) : headerOfWords k m' = headerOfWords k m := by
  have hword : ∀ j < k.headerWords, Memory.word m' j = Memory.word m j := fun j hj => h.word_eq (hreads j hj)
  cases k with
  | generic => rw [headerOfWords, headerOfWords, hword 0 (by decide)]
  | image => rw [headerOfWords, headerOfWords, hword 0 (by decide), hword 1 (by decide)]
  | dualColor => rw [headerOfWords, headerOfWords, hword 0 (by decide), hword 1 (by decide), hword 2 (by decide)]

/-- PARSE takes its reads and its Header or fault from the header words that it reads (40_header_unpack.md R90). -/
theorem unpackHeader_congr {n : BitVec 32} {m m' : Memory} (h : SameBytes (unpackHeader n m).1 m m') :
    unpackHeader n m' = unpackHeader n m := by
  unfold unpackHeader at h ⊢
  by_cases h1 : n.toNat < 1
  · rw [if_pos h1, if_pos h1]
  · rw [if_neg h1] at h
    rw [if_neg h1, if_neg h1]
    have word0 : Memory.word m' 0 = Memory.word m 0 := by
      refine h.word_eq ?_
      repeat' split
      all_goals exact List.mem_cons_self ..
    rw [word0]
    generalize kindOfByte (fieldKind (Memory.word m 0)) = found at h
    cases found with
    | none => rfl
    | some k =>
      cases k <;> dsimp only at h ⊢
      case generic => rw [h.headerOfWords_eq (by decide)]
      case image =>
        by_cases h2 : n.toNat < 2
        · rw [if_pos h2, if_pos h2]
        · rw [if_neg h2] at h
          dsimp only at h
          rw [if_neg h2, if_neg h2, h.headerOfWords_eq (by decide)]
      case dualColor =>
        by_cases h2 : n.toNat < 2
        · rw [if_pos h2, if_pos h2]
        · by_cases h3 : n.toNat < 3
          · rw [if_neg h2, if_neg h2, if_pos h3, if_pos h3]
          · rw [if_neg h2, if_neg h3] at h
            dsimp only at h
            rw [if_neg h2, if_neg h2, if_neg h3, if_neg h3, h.headerOfWords_eq (by decide)]

/-- The copy depends on the bytes it copies (43_payload_decode.md R122). -/
theorem copyInto_congr {m m' dst : Memory} {a k : Nat}
    (h : ∀ x < k, Memory.read m' (a + x) = Memory.read m (a + x)) : copyInto m' dst a k = copyInto m dst a k := by
  induction k with
  | zero => rfl
  | succ k ih => rw [copyInto, copyInto, ih fun x hx => h x (by omega), h k (by omega)]

/-- The expansion depends on the `ceil8(n)` bytes of the plane (42_bitplane_expand.md R111). -/
theorem expandInto_congr {m m' dst : Memory} {a : Nat} {p0 p1 : BitVec 64} {sz n : Nat}
    (h : ∀ x < ceil8 n, Memory.read m' (a + x) = Memory.read m (a + x)) :
    expandInto m' dst a p0 p1 sz n = expandInto m dst a p0 p1 sz n := by
  unfold ceil8 at h
  induction n with
  | zero => rfl
  | succ n ih =>
    rw [expandInto, expandInto, ih fun x hx => h x (by omega), Memory.sel, Memory.sel, h (n / 8) (by omega)]

/-! Two runs from different contents of SRC -/

/-- The state with other contents of SRC. -/
def State.withSrc (s : State) (m : Memory) : State := { s with src := m }

@[simp] theorem State.withSrc_srcLen (s : State) (m : Memory) : (s.withSrc m).srcLen = s.srcLen := rfl
@[simp] theorem State.withSrc_srcOff (s : State) (m : Memory) : (s.withSrc m).srcOff = s.srcOff := rfl
@[simp] theorem State.withSrc_regN (s : State) (m : Memory) : (s.withSrc m).regN = s.regN := rfl
@[simp] theorem State.withSrc_pal0 (s : State) (m : Memory) : (s.withSrc m).pal0 = s.pal0 := rfl
@[simp] theorem State.withSrc_pal1 (s : State) (m : Memory) : (s.withSrc m).pal1 = s.pal1 := rfl
@[simp] theorem State.withSrc_header (s : State) (m : Memory) : (s.withSrc m).header = s.header := rfl
@[simp] theorem State.withSrc_err (s : State) (m : Memory) : (s.withSrc m).err = s.err := rfl
@[simp] theorem State.withSrc_src (s : State) (m : Memory) : (s.withSrc m).src = m := rfl
@[simp] theorem State.withSrc_dst (s : State) (m : Memory) : (s.withSrc m).dst = s.dst := rfl

/-- The run from `s` to `t`, made again with SRC holding `m`, ends in `t'`: the same state but for SRC, if `m` has the
bytes that the run to `t` records as read. -/
def Replays (m : Memory) (s t t' : State) : Prop :=
  ∃ reads, t.srcReads = s.srcReads ++ reads ∧ (SameBytes reads s.src m → t' = t.withSrc m)

/-- A run that reads nothing of SRC and does the same beside it. -/
theorem Replays.of_no_reads {m : Memory} {s t t' : State} (hreads : t.srcReads = s.srcReads)
    (h : t' = t.withSrc m) : Replays m s t t' :=
  ⟨[], by rw [hreads, List.append_nil], fun _ => h⟩

/-- A branch on a condition that both runs share. -/
theorem Replays.ite {m : Memory} {s t t' u u' : State} (c : Prop) [Decidable c] (ht : Replays m s t t')
    (hu : Replays m s u u') : Replays m s (if c then t else u) (if c then t' else u') := by
  by_cases hc : c
  · rwa [if_pos hc, if_pos hc]
  · rwa [if_neg hc, if_neg hc]

section Rules
variable (m : Memory) (s : State)

theorem raise_replays (e : ErrCode) : Replays m s (s.raise e) ((s.withSrc m).raise e) := .of_no_reads rfl rfl

theorem needHeader_replays {op : State → State} (hop : Replays m s (op s) (op (s.withSrc m))) :
    Replays m s (needHeader s op) (needHeader (s.withSrc m) op) := .ite _ hop (raise_replays m s _)

theorem needEsz_replays (e : BitVec 4) (body : Nat → State → State)
    (hbody : 1 ≤ e.toNat → Replays m s (body e.toNat s) (body e.toNat (s.withSrc m))) :
    Replays m s (needEsz e s fun sz => body sz s)
      (needEsz e (s.withSrc m) fun sz => body sz (s.withSrc m)) := by
  by_cases he : legalEsz e
  · rw [needEsz_of_legal he, needEsz_of_legal he]
    exact hbody he.1
  · rw [needEsz_of_not_legal he, needEsz_of_not_legal he]
    exact raise_replays m s _

/-- PARSE records the header words it reads, and they decide what it does (40_header_unpack.md R90). -/
theorem parseStep_replays : Replays m s (parseStep s) (parseStep (s.withSrc m)) := by
  refine ⟨_, parseStep_srcReads s, fun h => ?_⟩
  unfold parseStep
  rw [State.withSrc_srcLen, State.withSrc_src, unpackHeader_congr h]
  cases (unpackHeader s.srcLen s.src).2 <;> rfl

/-- The W form (40_header_unpack.md R96): where PARSE replays, so does the body after it. -/
theorem wForm_replays (w : Bool) {op : State → State} (hop : ∀ p, Replays m p (op p) (op (p.withSrc m))) :
    Replays m s (wForm w op s) (wForm w op (s.withSrc m)) := by
  cases w with
  | false => exact hop s
  | true =>
    have hsrc : (parseStep s).src = s.src := by simp only [parseStep_keeps s]
    obtain ⟨first, hfirst, hparse⟩ := parseStep_replays m s
    rw [wForm_true, wForm_true]
    by_cases hok : (parseStep s).err = .ok
    · obtain ⟨second, hsecond, hbody⟩ := hop (parseStep s)
      rw [if_pos hok]
      refine ⟨first ++ second, by rw [hsecond, hfirst, List.append_assoc], fun h => ?_⟩
      rw [hparse h.append.1, State.withSrc_err, if_pos hok]
      exact hbody (hsrc ▸ h.append.2)
    · rw [if_neg hok]
      refine ⟨first, hfirst, fun h => ?_⟩
      rw [hparse h, State.withSrc_err, if_neg hok]

/-! The bodies of the operations -/

theorem isimgStep_replays : Replays m s (isimgStep s) (isimgStep (s.withSrc m)) :=
  needHeader_replays m s (.of_no_reads rfl rfl)

theorem accessorStep_replays (field : Header → BitVec 16) :
    Replays m s (accessorStep field s) (accessorStep field (s.withSrc m)) :=
  needHeader_replays m s (.ite _ (.of_no_reads rfl rfl) (.of_no_reads rfl rfl))

theorem cntImgStep_replays : Replays m s (cntImgStep s) (cntImgStep (s.withSrc m)) :=
  needHeader_replays m s (.ite _ (raise_replays m s _) (.of_no_reads rfl rfl))

theorem cntTStep_replays (sz : Nat) : Replays m s (cntTStep sz s) (cntTStep sz (s.withSrc m)) :=
  needHeader_replays m s (.ite _ (raise_replays m s _) (.of_no_reads rfl rfl))

/-- EXPAND records the plane, and the plane is what its output depends on (42_bitplane_expand.md R112). -/
theorem expandStep_replays (sz : Nat) : Replays m s (expandStep sz s) (expandStep sz (s.withSrc m)) := by
  refine .ite _ (raise_replays m s _) (.ite _ (raise_replays m s _) ⟨_, rfl, fun h => ?_⟩)
  rw [State.withSrc_src, State.withSrc_dst, State.withSrc_srcOff, State.withSrc_regN, State.withSrc_pal0,
    State.withSrc_pal1, expandInto_congr fun _ => h.read_eq]
  rfl

/-- The span of R123 is all that the data path of a decode depends on. -/
theorem decodeInto_congr {sz : Nat} (hsz : 1 ≤ sz) {r : Resolved} (hr : decodeResolve s.header sz = .ok r)
    (h : SameBytes (spanReads r.off r.span) s.src m) : decodeInto (s.withSrc m) sz r = decodeInto s sz r := by
  obtain ⟨-, -, hspan⟩ := (decodeResolve_eq_ok hsz).mp hr
  rw [hspan, payloadSpan] at h
  unfold decodeInto
  rw [State.withSrc_header]
  cases hk : s.header.kind <;> simp only [hk] at h ⊢
  case generic => exact copyInto_congr fun _ => h.read_eq
  case image => exact copyInto_congr fun _ => h.read_eq
  case dualColor => exact expandInto_congr fun _ => h.read_eq

theorem decodeDeliver_replays {sz : Nat} (hsz : 1 ≤ sz) {r : Resolved} (hr : decodeResolve s.header sz = .ok r) :
    Replays m s (decodeDeliver s sz r) (decodeDeliver (s.withSrc m) sz r) := by
  refine .ite _ (raise_replays m s _) ⟨_, rfl, fun h => ?_⟩
  rw [decodeInto_congr m s hsz hr h]
  rfl

theorem decBufStep_replays {sz : Nat} (hsz : 1 ≤ sz) :
    Replays m s (decBufStep sz s) (decBufStep sz (s.withSrc m)) := by
  refine needHeader_replays m s ?_
  rw [State.withSrc_header]
  cases hr : decodeResolve s.header sz with
  | error e => exact raise_replays m s e
  | ok r => exact .ite _ (raise_replays m s _) (decodeDeliver_replays m s hsz hr)

theorem decFixStep_replays {sz : Nat} (hsz : 1 ≤ sz) :
    Replays m s (decFixStep sz s) (decFixStep sz (s.withSrc m)) := by
  refine needHeader_replays m s ?_
  rw [State.withSrc_header]
  cases hr : decodeResolve s.header sz with
  | error e => exact raise_replays m s e
  | ok r =>
    exact .ite _ (raise_replays m s _) (.ite _ (raise_replays m s _) (decodeDeliver_replays m s hsz hr))

theorem bodyOf_replays (i : Instr) : Replays m s (bodyOf i s) (bodyOf i (s.withSrc m)) := by
  cases i with
  | parse => exact parseStep_replays m s
  | isimg w => exact isimgStep_replays m s
  | getw w => exact accessorStep_replays m s Header.width
  | geth w => exact accessorStep_replays m s Header.height
  | cntImg w => exact cntImgStep_replays m s
  | cntT e w => exact needEsz_replays m s e cntTStep fun _ => cntTStep_replays m s _
  | expand e => exact needEsz_replays m s e expandStep fun _ => expandStep_replays m s _
  | decBuf e w => exact needEsz_replays m s e decBufStep fun hsz => decBufStep_replays m s hsz
  | decFix e w => exact needEsz_replays m s e decFixStep fun hsz => decFixStep_replays m s hsz

end Rules

/-- Every operation replays: it ends in some `t'` with the other SRC, which the recorded reads decide. -/
theorem exec_replays {i : Instr} {s t : State} (h : exec i s = .next t) (m : Memory) :
    ∃ t', exec i (s.withSrc m) = .next t' ∧ Replays m s t t' := by
  cases hw : i.wellFormed with
  | false =>
    cases (exec_ill_formed hw s).symm.trans h
    exact ⟨_, exec_ill_formed hw _, raise_replays m s _⟩
  | true =>
    cases (exec_eq_wForm hw s).symm.trans h
    exact ⟨_, exec_eq_wForm hw _, wForm_replays m s i.wBit fun p => bodyOf_replays m p i⟩

/-- Settles O48: what the operation appended to the record is what its replay asks for. -/
theorem recordedReadsAreAllThatMatters : Obligations.RecordedReadsAreAllThatMatters := by
  intro i s t m h hsame
  obtain ⟨t', ht', reads, hreads, hreplay⟩ := exec_replays h m
  rw [hreads, List.drop_left] at hsame
  exact ht'.trans (congrArg Host.Outcome.next (hreplay hsame))

end Sys2Proof.Machine
end

section
/-! PROOFS. The encoding statements (30_encoding.md): the command word, the opcode map, the padding of the header words,
and the pseudo-operations. One equivalence carries the command word: `decode c = .ok i` says that the four fields of `c`
(R73) are those of the well-formed operation `i` (`decode_eq_ok_iff_spells`). A command is its four fields, so decoder
and encoder are inverse on the legal words (`decode_eq_ok_iff`), and the opcode map is compared with the decoder field
by field. The pseudo-operations are run move by move; for the dynamically sized decode, `Counted` says what its CNT.T.W
hands to its DEC.BUF and `Filled` what that leaves. -/

namespace Sys2Proof

/-! The fields of a command word (R73) -/

/-- A command is its four fields side by side: every bit belongs to one of them. -/
theorem command_eq_fields (c : Command) : cmdZero c ++ (BitVec.ofBool (cmdW c) ++ (cmdEsz c ++ cmdOp c)) = c := by
  have hw : BitVec.ofBool (cmdW c) = c.extractLsb' 8 1 := by
    apply BitVec.eq_of_getLsbD_eq
    intro k hk
    obtain rfl : k = 0 := by omega
    simp [cmdW]
  have low8 : cmdEsz c ++ cmdOp c = c.extractLsb' 0 8 := BitVec.extractLsb'_append_extractLsb'_eq_extractLsb' rfl
  have low9 : c.extractLsb' 8 1 ++ c.extractLsb' 0 8 = c.extractLsb' 0 9 :=
    BitVec.extractLsb'_append_extractLsb'_eq_extractLsb' rfl
  rw [hw, low8, low9]
  exact BitVec.extractLsb'_append_extractLsb' (w := 23) (len := 9)

theorem command_ext_iff {c c' : Command} :
    c = c' ↔ cmdZero c = cmdZero c' ∧ cmdOp c = cmdOp c' ∧ cmdEsz c = cmdEsz c' ∧ cmdW c = cmdW c' := by
  refine ⟨fun h => h ▸ ⟨rfl, rfl, rfl, rfl⟩, fun ⟨hz, ho, he, hw⟩ => ?_⟩
  rw [← command_eq_fields c, hz, ho, he, hw, command_eq_fields]

@[simp] theorem cmdOp_encode (i : Instr) : cmdOp (encode i) = i.op := by
  rw [cmdOp, encode, BitVec.extractLsb'_append_eq_of_add_le (by decide),
    BitVec.extractLsb'_append_eq_of_add_le (by decide), BitVec.extractLsb'_append_eq_right]

@[simp] theorem cmdEsz_encode (i : Instr) : cmdEsz (encode i) = i.eszField := by
  rw [cmdEsz, encode, BitVec.extractLsb'_append_eq_of_add_le (by decide),
    BitVec.extractLsb'_append_eq_of_add_le (by decide), BitVec.extractLsb'_append_eq_left]

@[simp] theorem cmdW_encode (i : Instr) : cmdW (encode i) = i.wBit := by
  rw [cmdW, encode, BitVec.getLsbD_append, BitVec.getLsbD_append, BitVec.getLsbD_ofBool]
  simp

@[simp] theorem cmdZero_encode (i : Instr) : cmdZero (encode i) = 0 :=
  BitVec.extractLsb'_append_eq_left

/-- Two fields side by side as a number. -/
theorem toNat_append_eq_add {m n : Nat} (x : BitVec m) (y : BitVec n) :
    (x ++ y).toNat = 2 ^ n * x.toNat + y.toNat := by
  rw [BitVec.toNat_append, ← Nat.shiftLeft_add_eq_or_of_lt y.isLt, Nat.shiftLeft_eq, Nat.mul_comm]

/-- Settles O4: the word is its fields side by side, so its number is their sum by weights, and each field is bounded by
its width. -/
theorem commandValueIsFieldSum : Obligations.CommandValueIsFieldSum := by
  intro i
  have hop := i.op.isLt
  have hesz := i.eszField.isLt
  have hw := i.wBit.toNat_lt
  have hsum : (encode i).toNat = 2 ^ 9 * 0 + (2 ^ 8 * i.wBit.toNat + (2 ^ 4 * i.eszField.toNat + i.op.toNat)) := by
    rw [encode, toNat_append_eq_add, toNat_append_eq_add, toNat_append_eq_add, BitVec.toNat_ofBool]
    rfl
  omega

/-! The decoder (R78) -/

theorem decodeUnsized_eq_ok {e : BitVec 4} {i j : Instr} : decodeUnsized e j = .ok i ↔ e = 0 ∧ j = i := by
  unfold decodeUnsized
  split
  · next he => rw [Except.ok.injEq, and_iff_right he]
  · next he => exact ⟨nofun, fun ⟨h, _⟩ => absurd h he⟩

theorem decodeSized_eq_ok {e : BitVec 4} {i j : Instr} : decodeSized e j = .ok i ↔ legalEsz e ∧ j = i := by
  unfold decodeSized
  split
  · next he => rw [Except.ok.injEq, and_iff_right he]
  · next he => exact ⟨nofun, fun ⟨h, _⟩ => absurd h he⟩

theorem decodeNoW_eq_ok {w : Bool} {r : Except IllegalReason Instr} {i : Instr} :
    decodeNoW w r = .ok i ↔ w = false ∧ r = .ok i := by
  cases w <;> simp [decodeNoW]

/-- The fields of `c` are those of the well-formed operation `i`. -/
structure Spells (c : Command) (i : Instr) : Prop where
  zero : cmdZero c = 0
  op : cmdOp c = i.op
  esz : cmdEsz c = i.eszField
  w : cmdW c = i.wBit
  wellFormed : i.wellFormed = true

/-- The decoder gives an operation whose fields are those of the word. -/
theorem spells_of_decode {c : Command} {i : Instr} (h : decode c = .ok i) : Spells c i := by
  unfold decode at h
  split at h
  · cases h
  · next hz =>
    have hz := not_not.mp hz
    split at h <;> simp only [decodeNoW_eq_ok, decodeUnsized_eq_ok, decodeSized_eq_ok, reduceCtorEq] at h
    case h_1 hop =>
      obtain ⟨hw, he, rfl⟩ := h
      exact ⟨hz, BitVec.eq_of_toNat_eq hop, he, hw, rfl⟩
    case h_2 hop | h_3 hop | h_4 hop | h_5 hop =>
      obtain ⟨he, rfl⟩ := h
      exact ⟨hz, BitVec.eq_of_toNat_eq hop, he, rfl, rfl⟩
    case h_7 hop =>
      obtain ⟨hw, he, rfl⟩ := h
      exact ⟨hz, BitVec.eq_of_toNat_eq hop, rfl, hw, decide_eq_true he⟩
    case h_6 hop | h_8 hop | h_9 hop =>
      obtain ⟨he, rfl⟩ := h
      exact ⟨hz, BitVec.eq_of_toNat_eq hop, rfl, rfl, decide_eq_true he⟩

/-- A word with the fields of a well-formed operation decodes to it. -/
theorem Spells.decode_eq {c : Command} {i : Instr} (h : Spells c i) : decode c = .ok i := by
  obtain ⟨hz, hop, he, hw, hi⟩ := h
  unfold decode
  rw [if_neg (not_not.mpr hz), hop, he, hw]
  cases i with
  | parse => exact decodeNoW_eq_ok.mpr ⟨rfl, decodeUnsized_eq_ok.mpr ⟨rfl, rfl⟩⟩
  | isimg w | getw w | geth w | cntImg w => exact decodeUnsized_eq_ok.mpr ⟨rfl, rfl⟩
  | expand e => exact decodeNoW_eq_ok.mpr ⟨rfl, decodeSized_eq_ok.mpr ⟨of_decide_eq_true hi, rfl⟩⟩
  | cntT e w | decBuf e w | decFix e w => exact decodeSized_eq_ok.mpr ⟨of_decide_eq_true hi, rfl⟩

theorem decode_eq_ok_iff_spells {c : Command} {i : Instr} : decode c = .ok i ↔ Spells c i :=
  ⟨spells_of_decode, Spells.decode_eq⟩

/-- A word has the fields of a well-formed operation exactly when it is the operation's command word. -/
theorem spells_iff {c : Command} {i : Instr} : Spells c i ↔ encode i = c ∧ i.wellFormed = true := by
  constructor
  · rintro ⟨hz, hop, he, hw, hi⟩
    exact ⟨command_ext_iff.mpr (by simp [hz, hop, he, hw]), hi⟩
  · rintro ⟨rfl, hi⟩
    exact ⟨cmdZero_encode i, cmdOp_encode i, cmdEsz_encode i, cmdW_encode i, hi⟩

/-- Decoder and encoder are inverse between the legal words and the well-formed operations (R73, R78). -/
theorem decode_eq_ok_iff {c : Command} {i : Instr} : decode c = .ok i ↔ encode i = c ∧ i.wellFormed = true :=
  decode_eq_ok_iff_spells.trans spells_iff

/-- Settles O1: `decode_eq_ok_iff` at the operation's own command word. -/
theorem decodeOfEncodeIsTheOperation : Obligations.DecodeOfEncodeIsTheOperation :=
  fun _ hi => decode_eq_ok_iff.mpr ⟨rfl, hi⟩

/-- Settles O2: the other direction of `decode_eq_ok_iff`. -/
theorem encodeOfDecodeIsTheCommand : Obligations.EncodeOfDecodeIsTheCommand :=
  fun _ _ h => decode_eq_ok_iff.mp h

/-- Settles O6: each word is decoded and each text spelled out. -/
theorem spelledCommandsDecode : Obligations.SpelledCommandsDecode := by
  unfold Obligations.SpelledCommandsDecode
  decide

/-! The opcode map (R74) -/

/-- A word selects a row field by field. -/
theorem OpcodeRow.selectedBy_iff (r : OpcodeRow) (c : Command) :
    r.selectedBy c ↔
      cmdZero c &&& cmdZero r.mask = cmdZero r.pattern ∧ cmdOp c &&& cmdOp r.mask = cmdOp r.pattern ∧
      cmdEsz c &&& cmdEsz r.mask = cmdEsz r.pattern ∧ (cmdW c && cmdW r.mask) = cmdW r.pattern := by
  rw [OpcodeRow.selectedBy, command_ext_iff]
  simp only [cmdZero, cmdOp, cmdEsz, cmdW, BitVec.extractLsb'_and, BitVec.getLsbD_and]

/-- How the rows are made: every bit of `ZERO` and of `OP` is fixed, and `ESZ` at 0 on a row without an element size; no
row asks for `W = 1`. -/
theorem opcodeMap_fields : ∀ r ∈ opcodeMap,
    (cmdZero r.mask = BitVec.allOnes 23 ∧ cmdZero r.pattern = 0) ∧ cmdOp r.mask = BitVec.allOnes 4 ∧
    (r.sized = false → cmdEsz r.mask = BitVec.allOnes 4 ∧ cmdEsz r.pattern = 0) ∧ cmdW r.pattern = false := by
  decide

/-- The rows have different opcode numbers. -/
theorem opcodeMap_op_inj : ∀ r ∈ opcodeMap, ∀ r' ∈ opcodeMap, cmdOp r.pattern = cmdOp r'.pattern → r = r' := by
  decide

/-- What a row says of the fields of a word that selects it. -/
theorem fields_of_selectedBy {r : OpcodeRow} (hr : r ∈ opcodeMap) {c : Command} (h : r.selectedBy c) :
    cmdZero c = 0 ∧ cmdOp c = cmdOp r.pattern ∧ (r.sized = false → cmdEsz c = 0) ∧
      (cmdW r.mask = true → cmdW c = false) := by
  obtain ⟨hz, hop, he, hw⟩ := (r.selectedBy_iff c).mp h
  obtain ⟨⟨hzmask, hzero⟩, hopmask, hunsized, hwpat⟩ := opcodeMap_fields r hr
  rw [hzmask, BitVec.and_allOnes, hzero] at hz
  rw [hopmask, BitVec.and_allOnes] at hop
  refine ⟨hz, hop, fun hs => ?_, fun hm => ?_⟩
  · obtain ⟨hemask, hepat⟩ := hunsized hs
    rwa [hemask, BitVec.and_allOnes, hepat] at he
  · rwa [hm, Bool.and_true, hwpat] at hw

/-- No word selects two rows: it would have two opcode numbers. -/
theorem row_unique {r r' : OpcodeRow} (hr : r ∈ opcodeMap) (hr' : r' ∈ opcodeMap) {c : Command} (h : r.selectedBy c)
    (h' : r'.selectedBy c) : r = r' := by
  obtain ⟨-, hop, -, -⟩ := fields_of_selectedBy hr h
  obtain ⟨-, hop', -, -⟩ := fields_of_selectedBy hr' h'
  exact opcodeMap_op_inj r hr r' hr' (hop.symm.trans hop')

/-- The command word of a well-formed operation is accepted by the operation's row (Laws/PerInstr.lean). -/
theorem row_accepts_encode (i : Instr) : Laws.RowSelected.Statement i := by
  cases i with
  | parse => exact Laws.RowSelected.parse
  | isimg w => exact Laws.RowSelected.isimg w
  | getw w => exact Laws.RowSelected.getw w
  | geth w => exact Laws.RowSelected.geth w
  | cntImg w => exact Laws.RowSelected.cntImg w
  | cntT e w => exact Laws.RowSelected.cntT e w
  | expand e => exact Laws.RowSelected.expand e
  | decBuf e w => exact Laws.RowSelected.decBuf e w
  | decFix e w => exact Laws.RowSelected.decFix e w

/-- A word that decodes is accepted by the row of its operation. -/
theorem accepted_of_decode {c : Command} {i : Instr} (h : decode c = .ok i) :
    ∃ r ∈ opcodeMap, r.accepts c ∧ r.mnemonic = i.mnemonic := by
  obtain ⟨rfl, hi⟩ := decode_eq_ok_iff.mp h
  obtain ⟨r, hr, hname, hacc⟩ := row_accepts_encode i hi
  exact ⟨r, hr, hacc, hname⟩

/-- A word that a row accepts decodes: the row leaves free exactly the fields that its operation takes from the word. -/
theorem decode_of_accepted {r : OpcodeRow} (hr : r ∈ opcodeMap) {c : Command} (h : r.accepts c) :
    ∃ i, decode c = .ok i := by
  obtain ⟨hsel, hesz⟩ := h
  obtain ⟨hz, hop, he, hw⟩ := fields_of_selectedBy hr hsel
  simp only [opcodeMap, List.mem_cons, List.not_mem_nil, or_false] at hr
  rcases hr with rfl | rfl | rfl | rfl | rfl | rfl | rfl | rfl | rfl
  · exact ⟨.parse, Spells.decode_eq ⟨hz, hop, he rfl, hw rfl, rfl⟩⟩
  · exact ⟨.isimg (cmdW c), Spells.decode_eq ⟨hz, hop, he rfl, rfl, rfl⟩⟩
  · exact ⟨.getw (cmdW c), Spells.decode_eq ⟨hz, hop, he rfl, rfl, rfl⟩⟩
  · exact ⟨.geth (cmdW c), Spells.decode_eq ⟨hz, hop, he rfl, rfl, rfl⟩⟩
  · exact ⟨.cntImg (cmdW c), Spells.decode_eq ⟨hz, hop, he rfl, rfl, rfl⟩⟩
  · exact ⟨.cntT (cmdEsz c) (cmdW c), Spells.decode_eq ⟨hz, hop, rfl, rfl, decide_eq_true (hesz rfl)⟩⟩
  · exact ⟨.expand (cmdEsz c), Spells.decode_eq ⟨hz, hop, rfl, hw rfl, decide_eq_true (hesz rfl)⟩⟩
  · exact ⟨.decBuf (cmdEsz c) (cmdW c), Spells.decode_eq ⟨hz, hop, rfl, rfl, decide_eq_true (hesz rfl)⟩⟩
  · exact ⟨.decFix (cmdEsz c) (cmdW c), Spells.decode_eq ⟨hz, hop, rfl, rfl, decide_eq_true (hesz rfl)⟩⟩

/-- Settles O3: decoder and opcode map accept the same words, and the zero word has no opcode number of an operation. -/
theorem legalCommandsAreTheOpcodeMap : Obligations.LegalCommandsAreTheOpcodeMap := by
  intro c
  refine ⟨⟨fun ⟨i, h⟩ => ?_, fun ⟨r, hr, h⟩ => decode_of_accepted hr h⟩, fun r hr r' hr' => row_unique hr hr',
    fun i h => accepted_of_decode h, fun s hill => Machine.issueCommand_of_illegal hill s, nofun⟩
  obtain ⟨r, hr, hacc, -⟩ := accepted_of_decode h
  exact ⟨r, hr, hacc⟩

/-! The legal commands (95_test_vectors.md B5) -/

/-- The legal element sizes (R75). -/
def legalSizes : List (BitVec 4) := [1, 2, 3, 4, 5, 6, 7, 8]

theorem mem_legalSizes (e : BitVec 4) : e ∈ legalSizes ↔ legalEsz e := by
  revert e
  decide

/-- The nine operations of the five rows without an element size. -/
def unsizedOperations : List Instr :=
  [.parse, .isimg false, .isimg true, .getw false, .getw true, .geth false, .geth true, .cntImg false, .cntImg true]

/-- The seven operations of the four rows with an element size, at the size `e`. -/
def sizedOperations (e : BitVec 4) : List Instr :=
  [.cntT e false, .cntT e true, .expand e, .decBuf e false, .decBuf e true, .decFix e false, .decFix e true]

/-- The 9 + 8 * 7 operations that a legal command spells. -/
def legalOperations : List Instr := unsizedOperations ++ legalSizes.flatMap sizedOperations

theorem mem_legalOperations (i : Instr) : i ∈ legalOperations ↔ i.wellFormed = true := by
  rw [legalOperations, List.mem_append, List.mem_flatMap]
  cases i with
  | parse | expand => simp [unsizedOperations, sizedOperations, mem_legalSizes, Instr.wellFormed]
  | isimg w | getw w | geth w | cntImg w | cntT e w | decBuf e w | decFix e w =>
    cases w <;> simp [unsizedOperations, sizedOperations, mem_legalSizes, Instr.wellFormed]

theorem legalOperations_nodup : legalOperations.Nodup := by decide

/-- Different well-formed operations have different command words: the decoder reads them back. -/
theorem encode_inj_of_wellFormed {i j : Instr} (hi : i.wellFormed = true) (hj : j.wellFormed = true)
    (h : encode i = encode j) : i = j := by
  have hdecode : decode (encode j) = .ok i := decode_eq_ok_iff.mpr ⟨h, hi⟩
  rw [decode_eq_ok_iff.mpr ⟨rfl, hj⟩, Except.ok.injEq] at hdecode
  exact hdecode.symm

theorem encode_injOn_legalOperations :
    ∀ i ∈ legalOperations, ∀ j ∈ legalOperations, encode i = encode j → i = j := fun i hi j hj =>
  encode_inj_of_wellFormed ((mem_legalOperations i).mp hi) ((mem_legalOperations j).mp hj)

/-- Settles O5: the legal words are the command words of the 65 well-formed operations. -/
theorem sixtyFiveCommandsAreLegal : Obligations.SixtyFiveCommandsAreLegal := by
  have hnodup : (legalOperations.map encode).Nodup :=
    List.Nodup.map_on encode_injOn_legalOperations legalOperations_nodup
  refine ⟨legalOperations.map encode, hnodup, rfl, fun c => ?_⟩
  simp only [List.mem_map, mem_legalOperations, decode_eq_ok_iff, and_comm]

end Sys2Proof

namespace Sys2Proof.Machine

/-! The padding of the header words (R71) -/

/-- A write outside a span does not change what the span reads as. -/
theorem Memory.readLE_write_of_outside {a b n : Nat} (h : a < b ∨ b + n ≤ a) (m : Memory) (v : Byte) :
    Memory.readLE (Memory.write m a v) b n = Memory.readLE m b n :=
  Memory.readLE_congr fun x hx => by rw [Memory.read_write, if_neg (by omega)]

/-- No field of a Header has a padding byte among its bytes (R64, R67, R71). -/
theorem headerOfWords_write_padding {a : Nat} (ha : a ∈ [2, 3, 12, 13, 14, 15]) (k : Kind) (m : Memory) (v : Byte) :
    headerOfWords k (Memory.write m a v) = headerOfWords k m := by
  simp only [List.mem_cons, List.not_mem_nil, or_false] at ha
  rw [headerOfWords_eq_headerOfBytes, headerOfWords_eq_headerOfBytes]
  simp (disch := omega) only [headerOfBytes, Memory.readLE_write_of_outside]

/-- PARSE depends on SRC through the kind byte and the Header of each kind only (40_header_unpack.md R89). -/
theorem unpackHeader_eq_of_header {m m' : Memory} (hkind : Memory.read m' 0 = Memory.read m 0)
    (hheader : ∀ k, headerOfWords k m' = headerOfWords k m) (n : BitVec 32) :
    unpackHeader n m' = unpackHeader n m := by
  unfold unpackHeader
  rw [fieldKind_word, fieldKind_word, hkind, hheader, hheader, hheader]

/-- Two contents of SRC that unpack alike are alike to PARSE. -/
theorem parseStep_withSrc {s : State} {m : Memory} (h : unpackHeader s.srcLen m = unpackHeader s.srcLen s.src) :
    parseStep (s.withSrc m) = (parseStep s).withSrc m := by
  unfold parseStep
  rw [State.withSrc_srcLen, State.withSrc_src, h]
  cases (unpackHeader s.srcLen s.src).2 <;> rfl

/-- Settles O23: a padding byte is neither the kind byte nor a byte of a Header field. -/
theorem parseIgnoresPadding : Obligations.ParseIgnoresPadding := by
  intro s t a v ha hparse
  have hkind : Memory.read (Memory.write s.src a v) 0 = Memory.read s.src 0 := by
    rw [Memory.read_write, if_neg]
    rintro rfl
    revert ha
    decide
  have hunpack := unpackHeader_eq_of_header hkind (fun k => headerOfWords_write_padding ha k s.src v) s.srcLen
  cases hparse
  exact congrArg Host.Outcome.next (parseStep_withSrc hunpack)

/-! The pseudo-operations as lists of host moves (R83 to R86, R88) -/

/-- A run of one step is the step. -/
theorem run_one (M : Host.Core) (s : M.State) : M.run 1 s = M.step s := by
  rw [Host.Core.run]
  cases M.step s <;> rfl

/-- A step that answers a next state leaves the rest of the run to that state. -/
theorem run_succ_of_next {M : Host.Core} {s t : M.State} (h : M.step s = .next t) (k : Nat) :
    M.run (k + 1) s = M.run k t := by
  rw [Host.Core.run, h]

/-- A last move that issues a well-formed operation runs the operation. -/
theorem run_issue {s : State} {i : Instr} (hi : i.wellFormed = true) (h : s.moves = [issueMove (encode i)]) :
    Host.Core.run core 1 s = exec i { s with moves := [] } := by
  refine (run_one core s).trans ((step_issueMove h).trans ?_)
  exact issueCommand_of_ok (decode_eq_ok_iff.mpr ⟨rfl, hi⟩) _

/-- A register write that stands first sets its register, and the run goes on with the other moves. -/
theorem run_writeReg {s : State} {r : BitVec 5} {v : BitVec 64} {rest : List HostMove} (hr : r ≠ 31)
    (h : s.moves = .writeReg r v :: rest) (k : Nat) :
    Host.Core.run core (k + 1) s = Host.Core.run core k (State.writeReg { s with moves := rest } r v) :=
  run_succ_of_next (M := core) ((step_cons h).trans (hostWrite_register hr v _)) k

/-- A 32-bit operand goes through the 64-bit bus unchanged (10_state.md R34). -/
theorem setWidth_bus (v : BitVec 32) : (v.setWidth 64).setWidth 32 = v := by
  rw [BitVec.setWidth_setWidth_of_le v (by omega), BitVec.setWidth_eq]

theorem writeReg_regN (s : State) (v : BitVec 32) : s.writeReg 2 (v.setWidth 64) = { s with regN := v } :=
  congrArg (fun x => { s with regN := x }) (setWidth_bus v)

theorem writeReg_srcOff (s : State) (v : BitVec 32) : s.writeReg 1 (v.setWidth 64) = { s with srcOff := v } :=
  congrArg (fun x => { s with srcOff := x }) (setWidth_bus v)

theorem writeReg_dstCap (s : State) (v : BitVec 32) : s.writeReg 5 (v.setWidth 64) = { s with dstCap := v } :=
  congrArg (fun x => { s with dstCap := x }) (setWidth_bus v)

/-- `set DST_CAP, capacity` and then a well-formed operation (R85, R86). -/
theorem run_capacity_issue {s : State} {cap : BitVec 32} {i : Instr} (hi : i.wellFormed = true)
    (h : s.moves = [.writeReg 5 (cap.setWidth 64), issueMove (encode i)]) :
    Host.Core.run core 2 s = exec i { s with moves := [], dstCap := cap } := by
  rw [run_writeReg (by decide) h, writeReg_dstCap, run_issue hi rfl]

/-- The five operands of `reconstruct` and then EXPAND (R88). -/
theorem run_reconstruct {s : State} {n p : BitVec 32} {c0 c1 : BitVec 64} {cap : BitVec 32} {e : BitVec 4}
    (he : legalEsz e) (h : s.moves = movesReconstruct n p c0 c1 cap e) :
    Host.Core.run core 6 s =
      exec (.expand e) { s with moves := [], regN := n, srcOff := p, pal0 := c0, pal1 := c1, dstCap := cap } := by
  rw [run_writeReg (by decide) h, writeReg_regN, run_writeReg (by decide) rfl, writeReg_srcOff,
    run_writeReg (by decide) rfl, run_writeReg (by decide) rfl]
  exact run_capacity_issue (i := .expand e) (decide_eq_true he) rfl

/-- Settles O42: the moves before the last set the operands, and the last one issues the command. -/
theorem pseudoOperationsSetTheirOperands : Obligations.PseudoOperationsSetTheirOperands := by
  intro s cap n p c0 c1 e he
  exact ⟨run_issue rfl, run_issue rfl, run_issue rfl, run_issue rfl, run_issue (decide_eq_true he),
    run_capacity_issue (decide_eq_true he), run_capacity_issue (decide_eq_true he), run_reconstruct he⟩

/-! The dynamically sized decode (R87) -/

/-- What a CNT.T that succeeded leaves: a loaded header and its typed count (41_element_count.md R102). -/
structure Counted (sz : Nat) (c : State) : Prop where
  hvalid : c.hvalid = true
  count : c.count = BitVec.ofNat 32 (typedCount c.header sz)
  inRange : c.header.kind ≠ .dualColor → bitCountTooLarge c.header = false

theorem counted_of_cntT {e : BitVec 4} {w : Bool} (he : legalEsz e) {s c : State} (h : exec (.cntT e w) s = .next c)
    (hok : c.err = .ok) : Counted e.toNat c := by
  rcases exec_cases h with ⟨hill, -⟩ | ⟨hi, -⟩ | ⟨-, -, -, hparse, rfl⟩ | ⟨-, -, p, -, rfl⟩
  · exact absurd (decide_eq_true he) (Bool.eq_false_iff.mp hill)
  · cases hi
  · exact absurd hok hparse
  · rw [bodyOf_cntT he] at hok ⊢
    rcases cntTStep_cases e.toNat p with ⟨-, hstep⟩ | ⟨-, -, -, hstep⟩ | ⟨hvalid, hrange, hstep⟩
    · rw [hstep] at hok
      cases hok
    · rw [hstep] at hok
      cases hok
    · rw [hstep]
      exact ⟨hvalid, rfl, hrange⟩

/-- The COUNT register holds the whole typed count (R103, R104). -/
theorem Counted.toNat_count {sz : Nat} {c : State} (h : Counted sz c) : c.count.toNat = typedCount c.header sz := by
  rw [h.count, BitVec.toNat_ofNat, Nat.mod_eq_of_lt (typedCount_lt c.header sz)]

/-- The state in which the second half of `decode_dynamic` issues its DEC.BUF: the host has read COUNT and set DST_CAP
to it (R87). -/
def State.fillStart (c : State) : State :=
  { c with readings := c.readings ++ [.reg 16 (c.readReg 16)], dstCap := c.count }

theorem decodeDynamicFill_eq (e : BitVec 4) (c : State) :
    decodeDynamicFill e c = exec (.decBuf e false) c.fillStart :=
  congrArg (exec (.decBuf e false)) (writeReg_dstCap _ c.count)

/-- No header check of a decode is `BufferTooSmall` (43_payload_decode.md R123). -/
theorem decodeResolve_ne_error_bufferTooSmall {h : Header} {sz : Nat} (hsz : 1 ≤ sz) :
    decodeResolve h sz ≠ .error .bufferTooSmall := (decodeResolve_eq_error hsz).mp

/-- DEC.BUF with DST_CAP at the count: the capacity check passes, so it faults in its header checks or goes on to the
data path (R123, R124). -/
theorem decBufStep_fillStart_cases {sz : Nat} {c : State} (hc : Counted sz c) :
    (∃ e, decodeResolve c.header sz = .error e ∧ decBufStep sz c.fillStart = c.fillStart.raise e) ∨
    (∃ r, decodeResolve c.header sz = .ok r ∧ r.n = c.count.toNat ∧
      decBufStep sz c.fillStart = decodeDeliver c.fillStart sz r) := by
  rcases decBufStep_cases sz c.fillStart with ⟨hv, -⟩ | ⟨-, e, hr, h⟩ | ⟨-, r, hr, ⟨hcap, -⟩ | ⟨-, h⟩⟩
  · exact absurd hc.hvalid (Bool.eq_false_iff.mp hv)
  · exact .inl ⟨e, hr, h⟩
  · have hn : r.n = c.count.toNat := (decodeResolve_count hr).trans hc.toNat_count.symm
    exact absurd hn (Nat.ne_of_gt hcap)
  · exact .inr ⟨r, hr, (decodeResolve_count hr).trans hc.toNat_count.symm, h⟩

/-- What the fill half of `decode_dynamic` leaves, whether its DEC.BUF succeeds or faults: the capacity was large
enough, COUNT and the Header stand as CNT.T.W left them. -/
structure Filled (c t : State) : Prop where
  err : t.err ≠ .bufferTooSmall
  dstCap : t.dstCap = c.count
  count : t.count = c.count
  header : t.header = c.header

theorem decBufStep_filled {sz : Nat} (hsz : 1 ≤ sz) {c : State} (hc : Counted sz c) :
    Filled c (decBufStep sz c.fillStart) := by
  rcases decBufStep_fillStart_cases hc with ⟨e, hr, h⟩ | ⟨r, -, hn, h⟩ <;> rw [h]
  · exact ⟨fun (he : e = .bufferTooSmall) => decodeResolve_ne_error_bufferTooSmall hsz (he ▸ hr), rfl, rfl, rfl⟩
  · have hcount : BitVec.ofNat 32 r.n = c.count := by rw [hn, BitVec.ofNat_toNat, BitVec.setWidth_eq]
    rcases decodeDeliver_cases c.fillStart sz r with ⟨-, h⟩ | ⟨-, h⟩ <;> rw [h]
    · exact ⟨nofun, rfl, rfl, rfl⟩
    · exact ⟨nofun, rfl, hcount, rfl⟩

/-- A header of a copied kind with `bit_count` in range passes every check of a decode (R123). -/
theorem decodeResolve_of_copied {h : Header} (hk : h.kind ≠ .dualColor) (hrange : bitCountTooLarge h = false)
    (sz : Nat) :
    decodeResolve h sz =
      .ok { n := typedCount h sz, off := h.kind.payloadOffset, span := typedCount h sz * sz } := by
  simp [decodeResolve, hk, hrange]

/-- With a count of 0 of a copied kind the fill half has an empty span to check and no byte to write (R87). -/
theorem decBufStep_fillStart_of_count_zero {sz : Nat} (hsz : 1 ≤ sz) {c : State} (hc : Counted sz c) (h0 : c.count = 0)
    (hk : c.header.kind ≠ .dualColor) :
    (decBufStep sz c.fillStart).err = .ok ∧
      ∀ a, Memory.read (decBufStep sz c.fillStart).dst a = Memory.read c.dst a := by
  have hzero : typedCount c.header sz = 0 := by rw [← hc.toNat_count, h0]; rfl
  have hresolve := decodeResolve_of_copied hk (hc.inRange hk) sz
  rw [hzero, Nat.zero_mul] at hresolve
  rcases decBufStep_fillStart_cases hc with ⟨e, hr, -⟩ | ⟨r, hr, -, h⟩
  · cases hresolve.symm.trans hr
  · cases hresolve.symm.trans hr
    rw [h]
    rcases decodeDeliver_cases c.fillStart sz ⟨0, c.header.kind.payloadOffset, 0⟩ with ⟨hspan, -⟩ | ⟨-, h⟩
    · cases hspan
    · rw [h]
      refine ⟨rfl, fun a => (read_decodeInto c.fillStart hr hsz a).trans (if_neg ?_)⟩
      simp

/-- A CNT.T.W that faulted ends the sequence, one that succeeded is followed by the DEC.BUF of the fill half. -/
theorem decodeDynamic_of_fault {e : BitVec 4} {s c : State} (h : exec (.cntT e true) s = .next c) (hf : c.err ≠ .ok) :
    decodeDynamic e s = .next c := by
  unfold decodeDynamic
  rw [h]
  exact if_neg hf

theorem decodeDynamic_of_ok {e : BitVec 4} (he : legalEsz e) {s c : State} (h : exec (.cntT e true) s = .next c)
    (hok : c.err = .ok) : decodeDynamic e s = .next (decBufStep e.toNat c.fillStart) := by
  have hfill : decodeDynamicFill e c = .next (decBufStep e.toNat c.fillStart) := by
    rw [decodeDynamicFill_eq, exec_of_bodyStart (i := .decBuf e false) (decide_eq_true he) (.inl ⟨rfl, rfl⟩),
      bodyOf_decBuf he]
  unfold decodeDynamic
  rw [h]
  exact (if_pos hok).trans hfill

/-- Settles O41: the fill half runs with DST_CAP at the count that CNT.T.W found, which is the count that DEC.BUF
resolves. -/
theorem dynamicDecodeNeverOverruns : Obligations.DynamicDecodeNeverOverruns := by
  intro e s c he h
  refine ⟨decodeDynamic_of_fault h, fun hok => ?_⟩
  have hc := counted_of_cntT he h hok
  obtain ⟨herr, hcap, hcount, hheader⟩ := decBufStep_filled he.1 hc
  refine ⟨_, decodeDynamic_of_ok he h hok, herr, hcap, hcount, hheader, fun h0 hk => ?_⟩
  rw [← exec_dst_of_not_writesDst h rfl]
  exact decBufStep_fillStart_of_count_zero he.1 hc h0 hk

end Sys2Proof.Machine
end

section
/-! PROOFS. The header unpack statements (40_header_unpack.md). PARSE is one equation over the kind (`unpackHeader_eq`):
it takes the header words of the kind that the kind byte spells, if SRC has them all, and faults at the end of SRC
otherwise. A Header is its bytes (`headerOfWords_eq_bytes`), so equal Headers are equal bytes. A W form is PARSE and then
the body of the plain operation, which finds a loaded header (`bodyOf_err_ne_headerNotLoaded`). -/

namespace Sys2Proof.Machine

/-! What PARSE does for each kind (R89, R90) -/

/-- The reads of the first `n` header words, in order (R90). -/
def headerReads (n : Nat) : List SrcRead := (List.range n).map headerRead

/-- PARSE of a sequence whose kind byte spells `k`: the Header after all its words are read, or `SourceRange` after
the words that SRC has (R89, R90). -/
theorem unpackHeader_eq {m : Memory} {k : Kind} (hk : Memory.read m 0 = k.code) (n : BitVec 32) :
    unpackHeader n m =
      if k.headerWords ≤ n.toNat then (headerReads k.headerWords, .ok (headerOfWords k m))
      else (headerReads n.toNat, .error .sourceRange) := by
  have hkind : kindOfByte (fieldKind (Memory.word m 0)) = some k := by
    rw [fieldKind_word]
    exact (kindOfByte_eq_some _ _).mpr hk
  unfold unpackHeader
  rw [hkind]
  generalize n.toNat = len
  cases k <;> match len with
    | 0 | 1 | 2 => rfl
    | len + 3 => simp [Kind.headerWords, headerReads, List.range_succ]

/-- A kind byte that spells no kind is `ReservedKind` after the first word is read (R89, R90). -/
theorem unpackHeader_reserved {m : Memory} (hk : 3 ≤ (Memory.read m 0).toNat) {n : BitVec 32} (hn : 1 ≤ n.toNat) :
    unpackHeader n m = (headerReads 1, .error .reservedKind) := by
  have hkind : kindOfByte (fieldKind (Memory.word m 0)) = none := by
    rw [fieldKind_word]
    exact (kindOfByte_eq_none _).mpr hk
  unfold unpackHeader
  rw [if_neg (by omega), hkind]
  rfl

/-- No header word in SRC: `SourceRange` before anything is read (R89). -/
theorem unpackHeader_empty {n : BitVec 32} (hn : n.toNat < 1) (m : Memory) :
    unpackHeader n m = ([], .error .sourceRange) := if_pos hn

/-- PARSE takes a Header exactly when the kind byte spells a kind whose header words are all in SRC, and then it is
the Header of those words (R89). -/
theorem unpackHeader_eq_ok {n : BitVec 32} {m : Memory} {h : Header} :
    (unpackHeader n m).2 = .ok h ↔
      ∃ k, Memory.read m 0 = k.code ∧ k.headerWords ≤ n.toNat ∧ headerOfWords k m = h := by
  constructor
  · intro hu
    cases hk : kindOfByte (Memory.read m 0) with
    | none =>
      by_cases hn : 1 ≤ n.toNat
      · rw [unpackHeader_reserved ((kindOfByte_eq_none _).mp hk) hn] at hu
        cases hu
      · rw [unpackHeader_empty (Nat.lt_of_not_le hn)] at hu
        cases hu
    | some k =>
      have hcode := (kindOfByte_eq_some _ _).mp hk
      rw [unpackHeader_eq hcode] at hu
      split at hu
      · next hn => exact ⟨k, hcode, hn, Except.ok.inj hu⟩
      · cases hu
  · rintro ⟨k, hcode, hn, rfl⟩
    rw [unpackHeader_eq hcode, if_pos hn]

/-! The two ends of PARSE (R91) -/

theorem exec_parse_of_error {s : State} {reads : List SrcRead} {e : ErrCode}
    (h : unpackHeader s.srcLen s.src = (reads, .error e)) :
    exec .parse s = .next { s with err := e, srcReads := s.srcReads ++ reads } := by
  change Host.Outcome.next (parseStep s) = _
  unfold parseStep
  rw [h]
  rfl

theorem exec_parse_of_ok {s : State} {reads : List SrcRead} {hd : Header}
    (h : unpackHeader s.srcLen s.src = (reads, .ok hd)) :
    exec .parse s = .next { s with
      header := hd, hvalid := true, dimv := dimvOf hd.kind, palv := palvOf hd.kind, err := .ok
      srcReads := s.srcReads ++ reads } := by
  change Host.Outcome.next (parseStep s) = _
  unfold parseStep
  rw [h]
  rfl

/-- SRC ends after `n` words, before the header does: `SourceRange` after these words are read. -/
theorem exec_parse_of_short {s : State} {k : Kind} (hk : Memory.read s.src 0 = k.code) {n : Nat}
    (hlen : s.srcLen.toNat = n) (hn : n < k.headerWords) :
    exec .parse s = .next { s with err := .sourceRange, srcReads := s.srcReads ++ headerReads n } := by
  subst hlen
  exact exec_parse_of_error ((unpackHeader_eq hk s.srcLen).trans (if_neg (Nat.not_le_of_lt hn)))

/-- SRC holds every header word: the Header is committed with the flags of its kind. -/
theorem exec_parse_of_long {s : State} {k : Kind} (hk : Memory.read s.src 0 = k.code)
    (hn : k.headerWords ≤ s.srcLen.toNat) :
    exec .parse s = .next { s with
      header := headerOfWords k s.src, hvalid := true, dimv := dimvOf k, palv := palvOf k, err := .ok
      srcReads := s.srcReads ++ headerReads k.headerWords } := by
  have h := exec_parse_of_ok ((unpackHeader_eq hk s.srcLen).trans (if_pos hn))
  rwa [headerOfWords_kind] at h

/-! A Header as its bytes (20_memory.md R47) -/

/-- The Header of kind `k` with each field the concatenation of its bytes, a field without a word 0 (R89). -/
theorem headerOfWords_eq_bytes (k : Kind) (m : Memory) :
    headerOfWords k m =
      { kind := k, bpp := Memory.read m 1
        bitCount := Memory.read m 7 ++ Memory.read m 6 ++ Memory.read m 5 ++ Memory.read m 4
        width := if k = .generic then 0 else Memory.read m 9 ++ Memory.read m 8
        height := if k = .generic then 0 else Memory.read m 11 ++ Memory.read m 10
        color0 :=
          if k = .dualColor then Memory.read m 19 ++ Memory.read m 18 ++ Memory.read m 17 ++ Memory.read m 16
          else 0
        color1 :=
          if k = .dualColor then Memory.read m 23 ++ Memory.read m 22 ++ Memory.read m 21 ++ Memory.read m 20
          else 0 } := by
  rw [← fieldBpp_word, ← fieldBitCount_word, ← fieldWidth_word, ← fieldHeight_word, ← fieldColor0_word,
    ← fieldColor1_word]
  cases k <;> rfl

/-- Settles O22: a kind byte spells a kind, whose words SRC has or has not, or it is reserved. -/
theorem parseUnpacksTheHeader : Obligations.ParseUnpacksTheHeader := by
  refine ⟨by decide, fun s b hb => ?_⟩
  obtain rfl : b = Memory.read s.src := funext hb
  refine ⟨fun hn => ?_, fun hn hk => ?_, fun hn hk => ?_, fun hn hk => ?_, fun hn hk => ?_, fun hn hk => ?_,
    fun hn hk => ?_⟩
  · have h := exec_parse_of_error (unpackHeader_empty (by rw [hn]; decide) s.src)
    rwa [List.append_nil] at h
  · exact exec_parse_of_error (unpackHeader_reserved hk hn)
  · rcases hk with hk | hk
    · exact exec_parse_of_short (k := .image) hk (congrArg BitVec.toNat hn) (by decide)
    · exact exec_parse_of_short (k := .dualColor) hk (congrArg BitVec.toNat hn) (by decide)
  · exact exec_parse_of_short (k := .dualColor) hk (congrArg BitVec.toNat hn) (by decide)
  · rw [exec_parse_of_long (k := .generic) hk hn, headerOfWords_eq_bytes]; rfl
  · rw [exec_parse_of_long (k := .image) hk hn, headerOfWords_eq_bytes]; rfl
  · rw [exec_parse_of_long (k := .dualColor) hk hn, headerOfWords_eq_bytes]; rfl

/-! Equal Headers (R97) -/

/-- Two bit strings put together of parts of the same lengths are equal part by part. -/
theorem append_eq_append_iff {p q : Nat} {x x' : BitVec p} {y y' : BitVec q} :
    x ++ y = x' ++ y' ↔ x = x' ∧ y = y' := by
  constructor
  · intro h
    constructor
    · simpa only [BitVec.extractLsb'_append_eq_left] using congrArg (BitVec.extractLsb' q p) h
    · simpa only [BitVec.setWidth_append_eq_right] using congrArg (BitVec.setWidth q) h
  · rintro ⟨rfl, rfl⟩
    rfl

theorem two_bytes_inj {a b a' b' : Byte} : (b ++ a : BitVec 16) = b' ++ a' ↔ a = a' ∧ b = b' :=
  append_eq_append_iff.trans and_comm

theorem four_bytes_inj {a b c d a' b' c' d' : Byte} :
    (d ++ c ++ b ++ a : BitVec 32) = d' ++ c' ++ b' ++ a' ↔ a = a' ∧ b = b' ∧ c = c' ∧ d = d' := by
  refine append_eq_append_iff.trans (and_comm.trans (and_congr_right fun _ => ?_))
  refine append_eq_append_iff.trans (and_comm.trans (and_congr_right fun _ => ?_))
  exact append_eq_append_iff.trans and_comm

theorem Kind.code_inj {k k' : Kind} : k.code = k'.code ↔ k = k' := by
  rw [← kindOfByte_eq_some, (kindOfByte_eq_some k.code k).mpr rfl, Option.some.injEq]

/-- Two Headers of one kind are equal exactly when the bytes of the fields of that kind are (R97). -/
theorem headerOfWords_inj (k : Kind) (m m' : Memory) :
    headerOfWords k m = headerOfWords k m' ↔
      (∀ a ∈ [1, 4, 5, 6, 7], Memory.read m a = Memory.read m' a) ∧
      (k ≠ .generic → ∀ a ∈ [8, 9, 10, 11], Memory.read m a = Memory.read m' a) ∧
      (k = .dualColor → ∀ a ∈ List.range' 16 8, Memory.read m a = Memory.read m' a) := by
  rw [headerOfWords_eq_bytes, headerOfWords_eq_bytes]
  have hrange : List.range' 16 8 = [16, 17, 18, 19, 20, 21, 22, 23] := rfl
  cases k with
  | generic => simp [four_bytes_inj]
  | image => simp [four_bytes_inj, two_bytes_inj, and_assoc]
  | dualColor => simp [four_bytes_inj, two_bytes_inj, hrange, and_assoc]

/-- The kind of the Header that a PARSE took is the one its kind byte spells, and the Header is that of the words. -/
theorem header_of_parse_ok {s t : State} (h : exec .parse s = .next t) (hok : t.err = .ok) :
    Memory.read s.src 0 = t.header.kind.code ∧ t.header = headerOfWords t.header.kind s.src := by
  cases h
  rcases parseStep_cases s with ⟨e, hu, h⟩ | ⟨hd, hu, h⟩ <;> rw [h] at hok ⊢
  · obtain rfl | rfl := unpackHeader_error _ _ hu <;> cases hok
  · obtain ⟨k, hk, -, rfl⟩ := unpackHeader_eq_ok.mp hu
    simp [hk]

/-- Settles O24: equal Headers have equal kinds, and of one kind `headerOfWords_inj` compares the bytes. -/
theorem unpackingIsInjective : Obligations.UnpackingIsInjective := by
  intro s s' t t' h h' hok hok'
  obtain ⟨hbyte, hheader⟩ := header_of_parse_ok h hok
  obtain ⟨hbyte', hheader'⟩ := header_of_parse_ok h' hok'
  have hkind : Memory.read s.src 0 = Memory.read s'.src 0 ↔ t.header.kind = t'.header.kind := by
    rw [hbyte, hbyte', Kind.code_inj]
  by_cases hk : t.header.kind = t'.header.kind
  · have hinj := headerOfWords_inj t.header.kind s.src s'.src
    rw [← hheader, hk, ← hheader', ← hk] at hinj
    rw [hinj, List.forall_mem_cons (a := 0), hkind]
    simp only [hk, true_and, List.mem_range'_1, and_imp]
  · refine iff_of_false (fun he => hk (congrArg Header.kind he)) ?_
    rintro ⟨hword0, -⟩
    exact hk (hkind.mp (hword0 0 (List.mem_cons_self ..)))

/-! W forms (R96): without `W` the element size and the body stay -/

theorem plain_wellFormed (i : Instr) : i.plain.wellFormed = i.wellFormed := by cases i <;> rfl
theorem plain_wBit (i : Instr) : i.plain.wBit = false := by cases i <;> rfl
theorem bodyOf_plain (i : Instr) : bodyOf i.plain = bodyOf i := by cases i <;> rfl

/-- Without `W` an operation is its body. -/
theorem exec_plain {i : Instr} (hi : i.wellFormed = true) (s : State) : exec i.plain s = .next (bodyOf i s) := by
  rw [exec_eq_wForm ((plain_wellFormed i).trans hi), plain_wBit, wForm_false, bodyOf_plain]

/-- With `W` an operation is PARSE and then, if PARSE ended with `ERR = 0`, the plain operation. -/
theorem exec_wForm {i : Instr} (hi : i.wellFormed = true) (hw : i.wBit = true) {s p : State}
    (hp : exec .parse s = .next p) : exec i s = if p.err = .ok then exec i.plain p else .next p := by
  cases hp
  rw [exec_eq_wForm hi, hw, wForm_true, exec_plain hi]
  exact apply_ite ..

/-- No header check of a decode is `HeaderNotLoaded` (43_payload_decode.md R123). -/
theorem decodeResolve_ne_error_headerNotLoaded {h : Header} {sz : Nat} (hsz : 1 ≤ sz) :
    decodeResolve h sz ≠ .error .headerNotLoaded := (decodeResolve_eq_error hsz).mp

theorem decodeDeliver_err_ne_headerNotLoaded (s : State) (sz : Nat) (r : Resolved) :
    (decodeDeliver s sz r).err ≠ .headerNotLoaded := by
  rcases decodeDeliver_cases s sz r with ⟨-, h⟩ | ⟨-, h⟩ <;> rw [h] <;> nofun

theorem decBufStep_err_ne_headerNotLoaded {sz : Nat} (hsz : 1 ≤ sz) {p : State} (hvalid : p.hvalid = true) :
    (decBufStep sz p).err ≠ .headerNotLoaded := by
  rcases decBufStep_cases sz p with ⟨hno, -⟩ | ⟨-, c, hc, h⟩ | ⟨-, r, -, ⟨-, h⟩ | ⟨-, h⟩⟩
  · exact absurd hvalid (Bool.eq_false_iff.mp hno)
  all_goals rw [h]
  · rintro rfl
    exact decodeResolve_ne_error_headerNotLoaded hsz hc
  · nofun
  · exact decodeDeliver_err_ne_headerNotLoaded p sz r

theorem decFixStep_err_ne_headerNotLoaded {sz : Nat} (hsz : 1 ≤ sz) {p : State} (hvalid : p.hvalid = true) :
    (decFixStep sz p).err ≠ .headerNotLoaded := by
  rcases decFixStep_cases sz p with ⟨hno, -⟩ | ⟨-, c, hc, h⟩ | ⟨-, r, -, ⟨-, h⟩ | ⟨-, -, h⟩ | ⟨-, -, h⟩⟩
  · exact absurd hvalid (Bool.eq_false_iff.mp hno)
  all_goals rw [h]
  · rintro rfl
    exact decodeResolve_ne_error_headerNotLoaded hsz hc
  · nofun
  · nofun
  · exact decodeDeliver_err_ne_headerNotLoaded p sz r

/-- The body of an operation that has a W form does not raise `HeaderNotLoaded` when a header is loaded (10_state.md
R22). -/
theorem bodyOf_err_ne_headerNotLoaded {i : Instr} (hi : i.wellFormed = true) (hw : i.wBit = true) {p : State}
    (hvalid : p.hvalid = true) : (bodyOf i p).err ≠ .headerNotLoaded := by
  cases i with
  | parse | expand => cases hw
  | isimg =>
    rcases isimgStep_cases p with ⟨hno, -⟩ | ⟨-, h⟩
    · exact absurd hvalid (Bool.eq_false_iff.mp hno)
    · rw [bodyOf, h]; nofun
  | getw | geth =>
    rcases accessorStep_cases _ p with ⟨hno, -⟩ | ⟨-, -, h⟩ | ⟨-, -, h⟩
    · exact absurd hvalid (Bool.eq_false_iff.mp hno)
    all_goals rw [bodyOf, h]; nofun
  | cntImg =>
    rcases cntImgStep_cases p with ⟨hno, -⟩ | ⟨-, -, h⟩ | ⟨-, -, h⟩
    · exact absurd hvalid (Bool.eq_false_iff.mp hno)
    all_goals rw [bodyOf, h]; nofun
  | cntT e w =>
    rw [bodyOf_cntT (of_decide_eq_true hi)]
    rcases cntTStep_cases e.toNat p with ⟨hno, -⟩ | ⟨-, -, -, h⟩ | ⟨-, -, h⟩
    · exact absurd hvalid (Bool.eq_false_iff.mp hno)
    all_goals rw [h]; nofun
  | decBuf e w =>
    have he : legalEsz e := of_decide_eq_true hi
    rw [bodyOf_decBuf he]
    exact decBufStep_err_ne_headerNotLoaded he.1 hvalid
  | decFix e w =>
    have he : legalEsz e := of_decide_eq_true hi
    rw [bodyOf_decFix he]
    exact decFixStep_err_ne_headerNotLoaded he.1 hvalid

/-- A PARSE that ends with `ERR = 0` leaves a loaded header (R89). -/
theorem parseStep_hvalid_of_ok {s : State} (hok : (parseStep s).err = .ok) : (parseStep s).hvalid = true := by
  rcases parseStep_cases s with ⟨e, hu, h⟩ | ⟨hd, -, h⟩ <;> rw [h] at hok ⊢
  · obtain rfl | rfl := unpackHeader_error _ _ hu <;> cases hok
  · rfl

theorem parseStep_err_ne_headerNotLoaded (s : State) : (parseStep s).err ≠ .headerNotLoaded := by
  rcases parseStep_cases s with ⟨e, hu, h⟩ | ⟨hd, -, h⟩ <;> rw [h]
  · obtain rfl | rfl := unpackHeader_error _ _ hu <;> nofun
  · nofun

/-- Settles O25: the second clause splits as `exec_cases` does, into a fault of the PARSE half and a body that runs
after it. -/
theorem wFormIsParseThenOperation : Obligations.WFormIsParseThenOperation := by
  intro i s p hi hw hp
  refine ⟨exec_wForm hi hw hp, fun t ht => ?_⟩
  have herr := parseStep_err_ne_headerNotLoaded s
  rcases exec_cases ht with ⟨hill, -⟩ | ⟨-, rfl⟩ | ⟨-, -, -, -, rfl⟩ | ⟨-, -, q, hq, rfl⟩
  · exact absurd hi (Bool.eq_false_iff.mp hill)
  · exact herr
  · exact herr
  · rcases bodyStart_cases hq with ⟨hw', -⟩ | ⟨-, rfl, hok⟩
    · exact absurd hw (Bool.eq_false_iff.mp hw')
    · exact bodyOf_err_ne_headerNotLoaded hi hw (parseStep_hvalid_of_ok hok)

/-- A constructor whose `W = 0` form is the plain operation of its `W = 1` form meets R96. -/
theorem isWForm_of_plain {x : Bool → Instr} (hplain : (x true).plain = x false) (hi : (x true).wellFormed = true)
    (hw : (x true).wBit = true) : IsWForm x := by
  intro s p hp
  rw [← hplain]
  exact exec_wForm hi hw hp

/-! ISIMG, GETW, GETH (R93 to R95) -/

theorem Kind.isImage_iff {k : Kind} : k.isImage = true ↔ k ≠ .generic := by cases k <;> decide

theorem isimgStep_of_hvalid {s : State} (hvalid : s.hvalid = true) :
    isimgStep s = s.giveResult (if s.header.kind = .generic then 0 else 1) := by
  refine (needHeader_of_hvalid hvalid _).trans (congrArg s.giveResult ?_)
  cases s.header.kind <;> rfl

theorem isimgStep_of_not_hvalid {s : State} (hvalid : s.hvalid = false) :
    isimgStep s = s.raise .headerNotLoaded := needHeader_of_not_hvalid hvalid _

/-- Settles O26: with a header loaded and without one; the two command words decode by evaluation. -/
theorem isimgAnswersTheKind : Obligations.IsimgAnswersTheKind :=
  ⟨fun _ hvalid => congrArg Host.Outcome.next (isimgStep_of_hvalid hvalid),
    fun _ hvalid => congrArg Host.Outcome.next (isimgStep_of_not_hvalid hvalid),
    isWForm_of_plain rfl rfl rfl, by decide, by decide⟩

/-- GETW and GETH give the field of an image kind zero-extended, and no answer for Generic. -/
theorem accessorStep_of_image (field : Header → BitVec 16) {s : State} (hvalid : s.hvalid = true)
    (hk : s.header.kind ≠ .generic) :
    accessorStep field s = s.giveResult (BitVec.ofNat 32 (field s.header).toNat) := by
  rw [BitVec.ofNat_toNat]
  exact (needHeader_of_hvalid hvalid _).trans (if_pos (Kind.isImage_iff.mpr hk))

theorem accessorStep_of_generic (field : Header → BitVec 16) {s : State} (hvalid : s.hvalid = true)
    (hk : s.header.kind = .generic) : accessorStep field s = s.giveNoResult :=
  (needHeader_of_hvalid hvalid _).trans (if_neg fun h => Kind.isImage_iff.mp h hk)

theorem accessorStep_of_not_hvalid (field : Header → BitVec 16) {s : State} (hvalid : s.hvalid = false) :
    accessorStep field s = s.raise .headerNotLoaded := needHeader_of_not_hvalid hvalid _

/-- Settles O27: the shared accessor at the field `H_WIDTH`. -/
theorem getwAnswersTheWidth : Obligations.GetwAnswersTheWidth :=
  ⟨fun _ hvalid hk => congrArg Host.Outcome.next (accessorStep_of_image Header.width hvalid hk),
    fun _ hvalid hk => congrArg Host.Outcome.next (accessorStep_of_generic Header.width hvalid hk),
    fun _ hvalid => congrArg Host.Outcome.next (accessorStep_of_not_hvalid Header.width hvalid),
    isWForm_of_plain rfl rfl rfl, by decide, by decide⟩

/-- Settles O28: the shared accessor at the field `H_HEIGHT`. -/
theorem gethAnswersTheHeight : Obligations.GethAnswersTheHeight :=
  ⟨fun _ hvalid hk => congrArg Host.Outcome.next (accessorStep_of_image Header.height hvalid hk),
    fun _ hvalid hk => congrArg Host.Outcome.next (accessorStep_of_generic Header.height hvalid hk),
    fun _ hvalid => congrArg Host.Outcome.next (accessorStep_of_not_hvalid Header.height hvalid),
    isWForm_of_plain rfl rfl rfl, by decide, by decide⟩

end Sys2Proof.Machine
end

section
/-! PROOFS. The element count statements (41_element_count.md). A count step ends in one of three ways, each an equation;
where it succeeds it gives a number that COUNT holds whole (R103, R104), so the two counts are compared as numbers. -/

namespace Sys2Proof.Machine

/-! The command word of a sized operation -/

/-- The size field stands at bit 4 of the command word, so it adds 16 times its value (30_encoding.md R75). -/
theorem encode_eq_add (i : Instr) :
    encode i = (0#23 ++ (BitVec.ofBool i.wBit ++ (0#4 ++ i.op))) + 16 * i.eszField.setWidth 32 := by
  cases i with
  | parse => rfl
  | isimg w | getw w | geth w | cntImg w => cases w <;> rfl
  | expand e => revert e; decide
  | cntT e w | decBuf e w | decFix e w => revert e w; decide

/-- A command word written as the word of size 0 and the size added to it decodes (R73, R75). -/
theorem decode_add_size {i : Instr} (hi : i.wellFormed = true) {base : Command}
    (hbase : base = 0#23 ++ (BitVec.ofBool i.wBit ++ (0#4 ++ i.op))) :
    decode (base + 16 * i.eszField.setWidth 32) = .ok i :=
  decode_eq_ok_iff.mpr ⟨hbase ▸ encode_eq_add i, hi⟩

/-! The COUNT register (R103, R104) -/

/-- A number below 2^32 is given whole. -/
theorem giveCount_toNat_count (s : State) {n : Nat} (hn : n < 2 ^ 32) : (s.giveCount n).count.toNat = n := by
  rw [State.giveCount_count, BitVec.toNat_ofNat, Nat.mod_eq_of_lt hn]

/-! CNT.IMG (R101) -/

theorem cntImgStep_of_image {s : State} (hvalid : s.hvalid = true) (hk : s.header.kind ≠ .generic) :
    cntImgStep s = s.giveCount (imageCount s.header) := (needHeader_of_hvalid hvalid _).trans (if_neg hk)

theorem cntImgStep_of_generic {s : State} (hvalid : s.hvalid = true) (hk : s.header.kind = .generic) :
    cntImgStep s = s.raise .unsupportedKind := (needHeader_of_hvalid hvalid _).trans (if_pos hk)

theorem cntImgStep_of_not_hvalid {s : State} (hvalid : s.hvalid = false) :
    cntImgStep s = s.raise .headerNotLoaded := needHeader_of_not_hvalid hvalid _

/-- Settles O29: the product fits COUNT (`imageCount_lt`); the two command words decode by evaluation. -/
theorem cntImgResolvesTheProduct : Obligations.CntImgResolvesTheProduct :=
  ⟨fun s hvalid hk => ⟨_, giveCount_toNat_count s (imageCount_lt s.header),
      congrArg Host.Outcome.next (cntImgStep_of_image hvalid hk)⟩,
    fun _ hvalid hk => congrArg Host.Outcome.next (cntImgStep_of_generic hvalid hk),
    fun _ hvalid => congrArg Host.Outcome.next (cntImgStep_of_not_hvalid hvalid),
    isWForm_of_plain rfl rfl rfl, by decide, by decide⟩

/-! CNT.T (R102) -/

theorem typedCount_of_dualColor {h : Header} (hk : h.kind = .dualColor) (sz : Nat) :
    typedCount h sz = imageCount h := by rw [typedCount, hk]

theorem typedCount_of_ne_dualColor {h : Header} (hk : h.kind ≠ .dualColor) (sz : Nat) :
    typedCount h sz = spanCount h sz := by
  unfold typedCount
  split
  · next hd => exact absurd hd hk
  · rfl
  · rfl

/-- CNT.T succeeds if it has no use for `bit_count` or `bit_count` is in range. -/
theorem cntTStep_of_inRange {s : State} (hvalid : s.hvalid = true)
    (hrange : s.header.kind ≠ .dualColor → s.header.bitCount.toNat < 2 ^ 31) (sz : Nat) :
    cntTStep sz s = s.giveCount (typedCount s.header sz) := by
  refine (needHeader_of_hvalid hvalid _).trans (if_neg ?_)
  rintro ⟨hk, hlarge⟩
  exact Nat.not_le_of_lt (hrange hk) ((bitCountTooLarge_iff s.header).mp hlarge)

theorem cntTStep_of_tooLarge {s : State} (hvalid : s.hvalid = true) (hk : s.header.kind ≠ .dualColor)
    (hlarge : 2 ^ 31 ≤ s.header.bitCount.toNat) (sz : Nat) : cntTStep sz s = s.raise .bitCountRange :=
  (needHeader_of_hvalid hvalid _).trans (if_pos ⟨hk, (bitCountTooLarge_iff s.header).mpr hlarge⟩)

theorem cntTStep_of_not_hvalid {s : State} (hvalid : s.hvalid = false) (sz : Nat) :
    cntTStep sz s = s.raise .headerNotLoaded := needHeader_of_not_hvalid hvalid _

/-- Without `W` and at a legal element size, CNT.T is its body. -/
theorem exec_cntT {e : BitVec 4} (he : legalEsz e) {s t : State} (h : cntTStep e.toNat s = t) :
    exec (.cntT e false) s = .next t := by
  rw [← h, ← bodyOf_cntT he]
  exact exec_plain (i := .cntT e false) (decide_eq_true he) s

/-- Settles O30: the typed count fits COUNT (`typedCount_lt`), and it is the product for DualColorImage and the quotient
for the other kinds. -/
theorem cntTResolvesTheTypedCount : Obligations.CntTResolvesTheTypedCount := by
  intro e he
  have hwell : decide (legalEsz e) = true := decide_eq_true he
  have hcount (s : State) := giveCount_toNat_count s (typedCount_lt s.header e.toNat)
  refine ⟨fun s hvalid hk => ?dual, fun s hvalid hk hrange => ?quotient,
    fun _ hvalid hk hlarge => exec_cntT he (cntTStep_of_tooLarge hvalid hk hlarge _),
    fun _ hvalid => exec_cntT he (cntTStep_of_not_hvalid hvalid _), isWForm_of_plain rfl hwell rfl,
    decode_add_size (i := .cntT e false) hwell (by simp [Instr.wBit, Instr.op]),
    decode_add_size (i := .cntT e true) hwell (by simp [Instr.wBit, Instr.op])⟩
  case dual =>
    exact ⟨_, (hcount s).trans (typedCount_of_dualColor hk _), exec_cntT he (cntTStep_of_inRange hvalid (absurd hk) _)⟩
  case quotient =>
    exact ⟨_, (hcount s).trans (typedCount_of_ne_dualColor hk _),
      exec_cntT he (cntTStep_of_inRange hvalid (fun _ => hrange) _)⟩

/-! Packed images (R106) -/

/-- The payload of a packed image has `bpp` bytes for each pixel. -/
theorem spanCount_of_packed {h : Header} {bpp : Nat}
    (hpacked : h.bitCount.toNat = 8 * h.width.toNat * h.height.toNat * bpp) (sz : Nat) :
    spanCount h sz = imageCount h * bpp / sz := by
  rw [spanCount, imageCount, hpacked, Nat.mul_assoc 8, Nat.mul_assoc 8, Nat.mul_div_cancel_left _ (by decide)]

/-- Settles O31: the typed count is the number of payload bytes divided by the element size, which is the product at
`ESZ = bpp` and the byte count at `ESZ = 1`. -/
theorem countsAgreeOnPackedImages : Obligations.CountsAgreeOnPackedImages := by
  intro e s t u v he hvalid hk hbpp hrange hpacked ht hu hv
  have hdual : s.header.kind ≠ .dualColor := by simp [hk]
  have htyped (sz : Nat) : typedCount s.header sz = imageCount s.header * s.header.bpp.toNat / sz :=
    (typedCount_of_ne_dualColor hdual sz).trans (spanCount_of_packed hpacked sz)
  have hcntT {d : BitVec 4} (hd : legalEsz d) := exec_cntT hd (cntTStep_of_inRange hvalid (fun _ => hrange) d.toNat)
  cases ht.symm.trans (hcntT he)
  cases hu.symm.trans (congrArg Host.Outcome.next (cntImgStep_of_image hvalid (by simp [hk])))
  cases hv.symm.trans (hcntT (by decide))
  constructor
  · rw [State.giveCount_count, State.giveCount_count, htyped, hbpp, Nat.mul_div_cancel _ he.1]
  · rw [giveCount_toNat_count s (typedCount_lt _ _), giveCount_toNat_count s (imageCount_lt _), htyped]
    exact Nat.div_one _

end Sys2Proof.Machine
end

section
/-! PROOFS. The expansion statements (42_bitplane_expand.md). An EXPAND at a legal element size ends in one of three ways,
each an equation; the byte it writes is the law of `expandInto` (`read_expandInto`). Its output depends on SRC through the
selectors alone (`expandStep_withSrc`), and a selector is one bit of the plane: a bit of a whole plane byte or one of the
`n mod 8` top bits of the last byte (`sel_congr`). -/

namespace Sys2Proof.Machine

/-! The three ways in which EXPAND ends (R112) -/

theorem expandStep_of_overCapacity {s : State} (hcap : s.dstCap.toNat < s.regN.toNat) (sz : Nat) :
    expandStep sz s = s.raise .bufferTooSmall := if_pos hcap

theorem expandStep_of_outOfSource {s : State} (hcap : s.regN.toNat ≤ s.dstCap.toNat)
    (hspan : spanInSource s s.srcOff.toNat (ceil8 s.regN.toNat) = false) (sz : Nat) :
    expandStep sz s = s.raise .sourceRange := (if_neg (Nat.not_lt.mpr hcap)).trans (if_pos hspan)

theorem expandStep_of_inSource {s : State} (hcap : s.regN.toNat ≤ s.dstCap.toNat)
    (hspan : spanInSource s s.srcOff.toNat (ceil8 s.regN.toNat) = true) (sz : Nat) :
    expandStep sz s =
      { s.noteRead s.srcOff.toNat (ceil8 s.regN.toNat) with
        dst := expandInto s.src s.dst s.srcOff.toNat s.pal0 s.pal1 sz s.regN.toNat
        err := .ok } :=
  (if_neg (Nat.not_lt.mpr hcap)).trans (if_neg (by simp [hspan]))

/-- At a legal element size, EXPAND is its body. -/
theorem exec_expand {e : BitVec 4} (he : legalEsz e) {s t : State} (h : expandStep e.toNat s = t) :
    exec (.expand e) s = .next t := by
  rw [← h, ← bodyOf_expand he]
  exact exec_plain (i := .expand e) (decide_eq_true he) s

/-! The plane (R111) -/

/-- A plane has no byte exactly when it has no selector. -/
theorem ceil8_eq_zero {n : Nat} : ceil8 n = 0 ↔ n = 0 := by
  unfold ceil8
  omega

/-- The span check of a plane (20_memory.md R42). -/
theorem planeInSource_iff (s : State) (a n : Nat) :
    spanInSource s a (ceil8 n) = true ↔ n = 0 ∨ a + ceil8 n ≤ 8 * s.srcLen.toNat := by
  rw [spanInSource_iff, ceil8_eq_zero]

theorem spanReads_plane (a n : Nat) : spanReads a (ceil8 n) = if n = 0 then [] else [⟨a, ceil8 n⟩] := by
  simp only [spanReads, ceil8_eq_zero]

/-- Settles O32: the checks in their order, then the bytes of the expansion; an element's selector is spelled out by the
definition of `Memory.sel`. -/
theorem expandReconstructsThePlane : Obligations.ExpandReconstructsThePlane := by
  rintro e s n a sz he rfl rfl rfl
  refine ⟨fun hcap => exec_expand he (expandStep_of_overCapacity hcap _), fun hcap hpos hshort => ?fault,
    fun hcap hfits => ?success, decode_add_size (i := .expand e) (decide_eq_true he) (by simp [Instr.wBit, Instr.op])⟩
  case fault =>
    have hspan : ¬spanInSource s s.srcOff.toNat (ceil8 s.regN.toNat) = true := fun h =>
      ((planeInSource_iff ..).mp h).elim (Nat.ne_of_gt hpos) (Nat.not_le_of_lt hshort)
    exact exec_expand he (expandStep_of_outOfSource hcap (Bool.eq_false_iff.mpr hspan) _)
  case success =>
    have hstep := expandStep_of_inSource hcap ((planeInSource_iff ..).mpr hfits) e.toNat
    rw [State.noteRead, spanReads_plane] at hstep
    exact ⟨_, exec_expand he hstep, read_expandInto s.src s.dst _ _ _ _ _⟩

/-! What EXPAND does not depend on (R114) -/

/-- The expansion depends on the selectors of its elements. -/
theorem expandInto_congr_sel {m m' dst : Memory} {a : Nat} {p0 p1 : BitVec 64} {sz n : Nat}
    (h : ∀ i < n, Memory.sel m' a i = Memory.sel m a i) :
    expandInto m' dst a p0 p1 sz n = expandInto m dst a p0 p1 sz n := by
  induction n with
  | zero => rfl
  | succ n ih => rw [expandInto, expandInto, ih fun i hi => h i (Nat.lt_succ_of_lt hi), h n (Nat.lt_succ_self n)]

/-- EXPAND with other contents of SRC that spell the same selectors does the same beside them. -/
theorem expandStep_withSrc {s : State} {m : Memory}
    (h : ∀ i < s.regN.toNat, Memory.sel m s.srcOff.toNat i = Memory.sel s.src s.srcOff.toNat i) (sz : Nat) :
    expandStep sz (s.withSrc m) = (expandStep sz s).withSrc m := by
  rcases expandStep_cases sz s with ⟨hcap, hs⟩ | ⟨hcap, hspan, hs⟩ | ⟨hcap, hspan, hs⟩ <;> rw [hs]
  · exact expandStep_of_overCapacity (s := s.withSrc m) hcap sz
  · exact expandStep_of_outOfSource (s := s.withSrc m) hcap hspan sz
  · rw [← expandInto_congr_sel h]
    exact expandStep_of_inSource (s := s.withSrc m) hcap hspan sz

/-- The selectors of `n` elements are the bits of the `n div 8` whole plane bytes and the `n mod 8` top bits of the byte
after them. -/
theorem sel_congr {m m' : Memory} {a n : Nat}
    (hwhole : ∀ k, k < n / 8 → Memory.read m' (a + k) = Memory.read m (a + k))
    (hlast : ∀ j, 8 - n % 8 ≤ j → j < 8 →
      (Memory.read m' (a + n / 8)).getLsbD j = (Memory.read m (a + n / 8)).getLsbD j)
    {i : Nat} (hi : i < n) : Memory.sel m' a i = Memory.sel m a i := by
  unfold Memory.sel selectorOfByte
  by_cases hbyte : i / 8 < n / 8
  · rw [hwhole _ hbyte]
  · have hsame : i / 8 = n / 8 := by omega
    rw [hsame]
    exact hlast _ (by omega) (by omega)

/-- Settles O33: the bits that the two contents share are all the selectors; at an illegal size SRC plays no part. -/
theorem expandIgnoresUnusedBits : Obligations.ExpandIgnoresUnusedBits := by
  rintro e s t m n a rfl rfl hwhole hlast ht
  by_cases he : legalEsz e
  · cases ht.symm.trans (exec_expand he rfl)
    exact exec_expand he (expandStep_withSrc (fun _ hi => sel_congr hwhole hlast hi) _)
  · have hill : (Instr.expand e).wellFormed = false := decide_eq_false he
    cases ht.symm.trans (exec_ill_formed hill s)
    exact exec_ill_formed hill _

end Sys2Proof.Machine
end

section
/-! PROOFS. The payload decode statements (43_payload_decode.md). DEC.BUF and DEC.FIX differ in their count checks alone, so
one inductive says for both how a decode ends (`DecodeEnd`); the laws of a successful decode are read off the bytes and the
count that it delivers (`Delivered`). An operation issued twice finds after its first run the inputs that run had
(`bodyStart_again`), so it takes the same way again and writes the same bytes over those that it wrote. -/

namespace Sys2Proof.Machine

/-! What the header checks answer (R123) -/

theorem payloadStart_eq (h : Header) : payloadStart h = h.kind.payloadOffset := by
  unfold payloadStart
  cases h.kind <;> rfl

/-- A header that resolves to `n` elements gives the count, the first payload byte and the span of the payload. -/
theorem decodeResolve_of_resolves {h : Header} {sz n : Nat} (hsz : 1 ≤ sz) (hres : Resolves h sz n) :
    decodeResolve h sz = .ok ⟨n, payloadStart h, payloadSpan h sz n⟩ :=
  (decodeResolve_eq_ok hsz).mpr ⟨hres, payloadStart_eq h, rfl⟩

/-- The count of a decode fits COUNT (R123). -/
theorem toNat_resolved_count {h : Header} {sz : Nat} {r : Resolved} (hr : decodeResolve h sz = .ok r) :
    (BitVec.ofNat 32 r.n).toNat = r.n := by
  rw [BitVec.toNat_ofNat, decodeResolve_count hr, Nat.mod_eq_of_lt (typedCount_lt h sz)]

/-- A payload has no byte exactly when it has no element. -/
theorem payloadSpan_eq_zero {h : Header} {sz n : Nat} (hsz : 1 ≤ sz) : payloadSpan h sz n = 0 ↔ n = 0 := by
  have hcopy : n * sz = 0 ↔ n = 0 := by rw [Nat.mul_eq_zero, or_iff_left (Nat.ne_of_gt hsz)]
  unfold payloadSpan
  cases h.kind with
  | generic => exact hcopy
  | image => exact hcopy
  | dualColor => exact ceil8_eq_zero

/-- The faults that the header checks can raise. -/
def headerFaults : List ErrCode := [.typeMismatch, .bppRange, .bitCountRange, .planeMismatch]

theorem mem_headerFaults_of_raises {h : Header} {sz : Nat} {c : ErrCode} (hc : DecodeRaises h sz c) :
    c ∈ headerFaults := by
  cases c with
  | typeMismatch | bppRange | bitCountRange | planeMismatch => decide
  | _ => cases hc

/-! The end of a decode (R124, R125) -/

theorem decodeDeliver_of_outOfSource {s : State} {r : Resolved} (hpos : 0 < r.span)
    (hshort : 8 * s.srcLen.toNat < r.off + r.span) (sz : Nat) : decodeDeliver s sz r = s.raise .sourceRange := by
  refine if_pos (Bool.eq_false_iff.mpr fun h => ?_)
  exact ((spanInSource_iff ..).mp h).elim (Nat.ne_of_gt hpos) (Nat.not_le_of_lt hshort)

theorem decodeDeliver_of_inSource {s : State} {r : Resolved}
    (hfits : r.span = 0 ∨ r.off + r.span ≤ 8 * s.srcLen.toNat) (sz : Nat) :
    decodeDeliver s sz r =
      { s.noteRead r.off r.span with dst := decodeInto s sz r, count := BitVec.ofNat 32 r.n, err := .ok } :=
  if_neg (by simp [(spanInSource_iff ..).mpr hfits])

/-! How DEC.BUF and DEC.FIX end -/

/-- The two decodes at element size `e`. -/
def IsDecode (e : BitVec 4) (w : Bool) (i : Instr) : Prop := i = .decBuf e w ∨ i = .decFix e w

/-- How the body of a decode can end at the state `s`: with no header loaded, in a header check, in a count check, or on
the data path. -/
inductive DecodeEnd (sz : Nat) (s t : State) : Prop
  | unloaded : s.hvalid = false → t = s.raise .headerNotLoaded → DecodeEnd sz s t
  | badHeader (c : ErrCode) : s.hvalid = true → decodeResolve s.header sz = .error c → t = s.raise c →
      DecodeEnd sz s t
  | badCount (r : Resolved) (c : ErrCode) : s.hvalid = true → decodeResolve s.header sz = .ok r →
      c ∈ [ErrCode.bufferTooSmall, .countNotPositive, .capacityMismatch] → t = s.raise c → DecodeEnd sz s t
  | dataPath (r : Resolved) : s.hvalid = true → decodeResolve s.header sz = .ok r → t = decodeDeliver s sz r →
      DecodeEnd sz s t

theorem bodyOf_decode_end {e : BitVec 4} {w : Bool} {i : Instr} (hi : IsDecode e w i) (he : legalEsz e) (s : State) :
    DecodeEnd e.toNat s (bodyOf i s) := by
  rcases hi with rfl | rfl
  · rw [bodyOf_decBuf he]
    rcases decBufStep_cases e.toNat s with ⟨hv, h⟩ | ⟨hv, c, hr, h⟩ | ⟨hv, r, hr, ⟨-, h⟩ | ⟨-, h⟩⟩
    · exact .unloaded hv h
    · exact .badHeader c hv hr h
    · exact .badCount r _ hv hr (by decide) h
    · exact .dataPath r hv hr h
  · rw [bodyOf_decFix he]
    rcases decFixStep_cases e.toNat s with
      ⟨hv, h⟩ | ⟨hv, c, hr, h⟩ | ⟨hv, r, hr, ⟨-, h⟩ | ⟨-, -, h⟩ | ⟨-, -, h⟩⟩
    · exact .unloaded hv h
    · exact .badHeader c hv hr h
    · exact .badCount r _ hv hr (by decide) h
    · exact .badCount r _ hv hr (by decide) h
    · exact .dataPath r hv hr h

/-- A decode of a loaded header ends in the fault of a header check, or the header resolves and the fault, if any, is
none of these (R123, R137). -/
theorem bodyOf_decode_err {e : BitVec 4} {w : Bool} {i : Instr} (hi : IsDecode e w i) (he : legalEsz e) {s : State}
    (hv : s.hvalid = true) :
    (bodyOf i s).err ∈ headerFaults ∧ decodeResolve s.header e.toNat = .error (bodyOf i s).err ∨
    (bodyOf i s).err ∉ headerFaults ∧ ∃ r, decodeResolve s.header e.toNat = .ok r := by
  cases bodyOf_decode_end hi he s with
  | unloaded hv' => cases hv.symm.trans hv'
  | badHeader c _ hr h =>
    rw [h]
    exact .inl ⟨mem_headerFaults_of_raises ((decodeResolve_eq_error he.1).mp hr), hr⟩
  | badCount r c _ hr hc h =>
    rw [h]
    have hcount : ∀ c ∈ [ErrCode.bufferTooSmall, .countNotPositive, .capacityMismatch], c ∉ headerFaults := by decide
    exact .inr ⟨hcount c hc, r, hr⟩
  | dataPath r _ hr h =>
    rw [h]
    rcases decodeDeliver_cases s e.toNat r with ⟨-, h⟩ | ⟨-, h⟩ <;> rw [h]
    · exact .inr ⟨by simp [headerFaults], r, hr⟩
    · exact .inr ⟨by simp [headerFaults], r, hr⟩

/-- Without `W` and at a legal element size, a decode is its body. -/
theorem exec_decode {e : BitVec 4} {i : Instr} (hi : IsDecode e false i) (he : legalEsz e) {s t : State}
    (h : bodyOf i s = t) : exec i s = .next t := by
  rw [← h]
  rcases hi with rfl | rfl
  · exact exec_plain (i := .decBuf e false) (decide_eq_true he) s
  · exact exec_plain (i := .decFix e false) (decide_eq_true he) s

theorem exec_decode_of_not_hvalid {e : BitVec 4} {i : Instr} (hi : IsDecode e false i) (he : legalEsz e) {s : State}
    (hv : s.hvalid = false) : exec i s = .next (s.raise .headerNotLoaded) := by
  cases bodyOf_decode_end hi he s with
  | unloaded _ h => exact exec_decode hi he h
  | badHeader _ hv' | badCount _ _ hv' | dataPath _ hv' => cases hv.symm.trans hv'

theorem exec_decode_of_raises {e : BitVec 4} {i : Instr} (hi : IsDecode e false i) (he : legalEsz e) {s : State}
    {c : ErrCode} (hv : s.hvalid = true) (hc : DecodeRaises s.header e.toNat c) : exec i s = .next (s.raise c) := by
  have hresolve := (decodeResolve_eq_error he.1).mpr hc
  cases bodyOf_decode_end hi he s with
  | unloaded hv' => cases hv.symm.trans hv'
  | badHeader c' _ hr h =>
    cases hresolve.symm.trans hr
    exact exec_decode hi he h
  | badCount _ _ _ hr | dataPath _ _ hr => cases hresolve.symm.trans hr

/-! The count checks, at a header that resolves (R124, R125) -/

section CountChecks
variable {s : State} {sz : Nat} {r : Resolved}

theorem decBufStep_of_overCapacity (hv : s.hvalid = true) (hr : decodeResolve s.header sz = .ok r)
    (hcap : s.dstCap.toNat < r.n) : decBufStep sz s = s.raise .bufferTooSmall := by
  rw [decBufStep, needHeader_of_hvalid hv, hr]
  exact if_pos hcap

theorem decBufStep_of_inCapacity (hv : s.hvalid = true) (hr : decodeResolve s.header sz = .ok r)
    (hcap : r.n ≤ s.dstCap.toNat) : decBufStep sz s = decodeDeliver s sz r := by
  rw [decBufStep, needHeader_of_hvalid hv, hr]
  exact if_neg (Nat.not_lt.mpr hcap)

theorem decFixStep_of_count_zero (hv : s.hvalid = true) (hr : decodeResolve s.header sz = .ok r) (h0 : r.n = 0) :
    decFixStep sz s = s.raise .countNotPositive := by
  rw [decFixStep, needHeader_of_hvalid hv, hr]
  exact if_pos h0

theorem decFixStep_of_ne_capacity (hv : s.hvalid = true) (hr : decodeResolve s.header sz = .ok r) (h0 : r.n ≠ 0)
    (hcap : r.n ≠ s.dstCap.toNat) : decFixStep sz s = s.raise .capacityMismatch := by
  rw [decFixStep, needHeader_of_hvalid hv, hr]
  exact (if_neg h0).trans (if_pos hcap)

theorem decFixStep_of_eq_capacity (hv : s.hvalid = true) (hr : decodeResolve s.header sz = .ok r) (h0 : r.n ≠ 0)
    (hcap : r.n = s.dstCap.toNat) : decFixStep sz s = decodeDeliver s sz r := by
  rw [decFixStep, needHeader_of_hvalid hv, hr]
  exact (if_neg h0).trans (if_neg (not_not.mpr hcap))

end CountChecks

/-- Settles O34: the checks in their order, then the bytes of the data path (`read_decodeInto`). -/
theorem decBufDecodesThePayload : Obligations.DecBufDecodesThePayload := by
  intro e he
  have hwell : decide (legalEsz e) = true := decide_eq_true he
  have hdec : IsDecode e false (.decBuf e false) := .inl rfl
  refine ⟨fun _ => exec_decode_of_not_hvalid hdec he, fun _ _ => exec_decode_of_raises hdec he, ?resolved,
    isWForm_of_plain rfl hwell rfl,
    decode_add_size (i := .decBuf e false) hwell (by simp [Instr.wBit, Instr.op]),
    decode_add_size (i := .decBuf e true) hwell (by simp [Instr.wBit, Instr.op])⟩
  rintro s n a span hv hres rfl rfl
  have hr := decodeResolve_of_resolves he.1 hres
  have hexec {t : State} (h : decBufStep e.toNat s = t) : exec (.decBuf e false) s = .next t :=
    exec_decode hdec he ((bodyOf_decBuf he).trans h)
  refine ⟨fun hcap => hexec (decBufStep_of_overCapacity hv hr hcap), fun hcap hpos hshort => ?_, fun hcap hfits => ?_⟩
  · exact hexec ((decBufStep_of_inCapacity hv hr hcap).trans (decodeDeliver_of_outOfSource hpos hshort _))
  · exact ⟨_, _, toNat_resolved_count hr,
      hexec ((decBufStep_of_inCapacity hv hr hcap).trans (decodeDeliver_of_inSource hfits _)),
      read_decodeInto s hr he.1⟩

/-- Settles O35: as for DEC.BUF; a positive count has a payload, so its span is recorded. -/
theorem decFixFillsTheContainer : Obligations.DecFixFillsTheContainer := by
  intro e he
  have hwell : decide (legalEsz e) = true := decide_eq_true he
  have hdec : IsDecode e false (.decFix e false) := .inr rfl
  refine ⟨fun _ => exec_decode_of_not_hvalid hdec he, fun _ _ => exec_decode_of_raises hdec he, ?resolved,
    isWForm_of_plain rfl hwell rfl,
    decode_add_size (i := .decFix e false) hwell (by simp [Instr.wBit, Instr.op]),
    decode_add_size (i := .decFix e true) hwell (by simp [Instr.wBit, Instr.op])⟩
  rintro s n a span hv hres rfl rfl
  have hr := decodeResolve_of_resolves he.1 hres
  have hspan (h0 : n ≠ 0) : payloadSpan s.header e.toNat n ≠ 0 := mt (payloadSpan_eq_zero he.1).mp h0
  have hexec {t : State} (h : decFixStep e.toNat s = t) : exec (.decFix e false) s = .next t :=
    exec_decode hdec he ((bodyOf_decFix he).trans h)
  refine ⟨fun h0 => hexec (decFixStep_of_count_zero hv hr h0),
    fun h0 hcap => hexec (decFixStep_of_ne_capacity hv hr h0 hcap), fun h0 hcap hshort => ?_, fun h0 hcap hfits => ?_⟩
  · exact hexec ((decFixStep_of_eq_capacity hv hr h0 hcap).trans
      (decodeDeliver_of_outOfSource (Nat.pos_of_ne_zero (hspan h0)) hshort _))
  · have hcount : BitVec.ofNat 32 n = s.dstCap := by rw [hcap, BitVec.ofNat_toNat, BitVec.setWidth_eq]
    have hstep := (decFixStep_of_eq_capacity hv hr h0 hcap).trans (decodeDeliver_of_inSource (.inr hfits) _)
    rw [State.noteRead, spanReads, if_neg (hspan h0), hcount] at hstep
    exact ⟨_, hexec hstep, read_decodeInto s hr he.1⟩

/-- Settles O36: the code in ERR is the answer of the header checks, or they have answered with a count. -/
theorem decodeFaultsAreTheHeaderChecks : Obligations.DecodeFaultsAreTheHeaderChecks := by
  intro e s t x hx he hv h
  have hdec : IsDecode e false (x e false) := hx.imp (congrFun₂ · e false) (congrFun₂ · e false)
  cases (exec_decode hdec he rfl).symm.trans h
  have hraises (c : ErrCode) : DecodeRaises s.header e.toNat c ↔ decodeResolve s.header e.toNat = .error c :=
    (decodeResolve_eq_error he.1).symm
  rcases bodyOf_decode_err hdec he hv with ⟨hmem, hr⟩ | ⟨hmem, r, hr⟩
  · refine ⟨fun c _ => ?_, iff_of_false (not_not.mpr hmem) ?_⟩
    · rw [hraises, hr, Except.error.injEq]
    · rintro ⟨n, hn⟩
      cases hr.symm.trans (decodeResolve_of_resolves he.1 hn)
  · refine ⟨fun c hc => iff_of_false ?_ ?_, iff_of_true hmem ⟨r.n, ((decodeResolve_eq_ok he.1).mp hr).1⟩⟩
    · rintro rfl
      exact hmem hc
    · rw [hraises, hr]
      exact nofun

/-- Settles O37: one byte per pixel is no match for a 4-byte element, the first check of R123. -/
theorem mismatchedDecodeIsRejected : Obligations.MismatchedDecodeIsRejected := by
  intro s hv hk hbpp
  have he : legalEsz 4 := by decide
  have hraises : DecodeRaises s.header (4 : BitVec 4).toNat .typeMismatch := ⟨hk, by rw [hbpp]; decide⟩
  have hmismatch {i : Instr} (hi : IsDecode 4 false i) : exec i s = .next { s with err := .typeMismatch } :=
    exec_decode_of_raises hi he hv hraises
  exact ⟨hmismatch (.inl rfl), hmismatch (.inr rfl)⟩

/-! What a successful decode leaves (R127, R128) -/

/-- A decode from `s` that succeeded in `t`: the loaded header resolves to COUNT, and that many elements of DST are the
decoded bytes. -/
structure Delivered (sz : Nat) (s t : State) : Prop where
  resolves : Resolves t.header sz t.count.toNat
  dst : ∀ x, Memory.read t.dst x =
    if x < t.count.toNat * sz then decodedByte t.header t.src sz x else Memory.read s.dst x

theorem bodyOf_decode_delivered {e : BitVec 4} {w : Bool} {i : Instr} (hi : IsDecode e w i) (he : legalEsz e)
    {s : State} (hok : (bodyOf i s).err = .ok) : Delivered e.toNat s (bodyOf i s) := by
  cases bodyOf_decode_end hi he s with
  | unloaded _ h => rw [h] at hok; cases hok
  | badHeader c _ hr h =>
    rw [h] at hok
    obtain rfl : c = .ok := hok
    exact absurd hr (decodeResolve_ne_error_ok he.1)
  | badCount r c _ _ hc h =>
    rw [h] at hok
    obtain rfl : c = .ok := hok
    exact absurd hc (by decide)
  | dataPath r _ hr h =>
    rw [h] at hok ⊢
    rcases decodeDeliver_cases s e.toNat r with ⟨-, h⟩ | ⟨-, h⟩ <;> rw [h] at hok ⊢
    · cases hok
    · constructor <;> dsimp only [State.noteRead] <;> rw [toNat_resolved_count hr]
      · exact ((decodeResolve_eq_ok he.1).mp hr).1
      · exact read_decodeInto s hr he.1

theorem IsDecode.wellFormed_iff {e : BitVec 4} {w : Bool} {i : Instr} (hi : IsDecode e w i) :
    i.wellFormed = true ↔ legalEsz e := by
  rcases hi with rfl | rfl <;> exact decide_eq_true_iff

/-- A decode, plain or W, that succeeds has delivered the payload of the header it leaves. -/
theorem exec_decode_delivered {e : BitVec 4} {w : Bool} {i : Instr} (hi : IsDecode e w i) {s t : State}
    (h : exec i s = .next t) (hok : t.err = .ok) : legalEsz e ∧ Delivered e.toNat s t := by
  rcases exec_cases h with ⟨-, rfl⟩ | ⟨hp, -⟩ | ⟨-, -, -, hno, rfl⟩ | ⟨-, hwell, p, hp, rfl⟩
  · cases hok
  · rcases hi with rfl | rfl <;> cases hp
  · exact absurd hok hno
  · have he := hi.wellFormed_iff.mp hwell
    obtain ⟨hres, hdst⟩ := bodyOf_decode_delivered hi he hok
    exact ⟨he, hres, bodyStart_dst hp ▸ hdst⟩

/-- The count of a copied kind is what the whole payload bytes hold (R123). -/
theorem Resolves.count_of_copied {h : Header} {sz n : Nat} (hres : Resolves h sz n) (hk : h.kind ≠ .dualColor) :
    n = h.bitCount.toNat / 8 / sz := by
  obtain ⟨-, hn⟩ := hres
  cases hkind : h.kind <;> simp only [hkind] at hn
  · exact hn
  · exact hn
  · exact absurd hkind hk

/-- The size of a DualColorImage's elements is its `bpp` (R123). -/
theorem Resolves.bpp_of_dualColor {h : Header} {sz n : Nat} (hres : Resolves h sz n) (hk : h.kind = .dualColor) :
    h.bpp.toNat = sz := by
  obtain ⟨-, hn⟩ := hres
  simp only [hk] at hn
  exact hn.1

theorem decodedByte_of_copied {h : Header} (hk : h.kind ≠ .dualColor) (m : Memory) (sz x : Nat) :
    decodedByte h m sz x = Memory.read m ((if h.kind = .generic then 8 else 16) + x) := by
  unfold decodedByte
  cases hkind : h.kind
  · rfl
  · rfl
  · exact absurd hkind hk

/-- Byte `k` of element `j` of a DualColorImage is the stored byte of the colour that its selector picks (R128). -/
theorem decodedByte_of_dualColor {h : Header} (hk : h.kind = .dualColor) (m : Memory) {sz k : Nat} (hlt : k < sz)
    (j : Nat) :
    decodedByte h m sz (j * sz + k) =
      if (Memory.read m (24 + j / 8)).getLsbD (7 - j % 8) then h.color1.extractLsb' (8 * k) 8
      else h.color0.extractLsb' (8 * k) 8 := by
  have hdiv : (j * sz + k) / sz = j := by
    rw [Nat.mul_comm, Nat.mul_add_div (Nat.zero_lt_of_lt hlt), Nat.div_eq_of_lt hlt, Nat.add_zero]
  have hmod : (j * sz + k) % sz = k := by rw [Nat.mul_comm, Nat.mul_add_mod, Nat.mod_eq_of_lt hlt]
  simp only [decodedByte, hk, hdiv, hmod]

/-- Settles O38: the delivered bytes of a copied kind are the payload's, and the count is a quotient of the payload. -/
theorem verbatimCopyLaw : Obligations.VerbatimCopyLaw := by
  intro e w i s t hi h hok hk
  obtain ⟨-, hres, hdst⟩ := exec_decode_delivered hi h hok
  have hcount := hres.count_of_copied hk
  refine ⟨fun k hlt => ?_, ?_, ?_⟩
  · rw [hdst, if_pos hlt, decodedByte_of_copied hk]
  · rw [hcount]
    exact Nat.div_mul_le_self ..
  · rintro rfl
    exact hcount.trans (Nat.div_one _)

/-- Settles O39: byte `k` of element `j` is one of the delivered bytes. -/
theorem twoColourLaw : Obligations.TwoColourLaw := by
  intro e w i s t hi h hok hk
  obtain ⟨-, hres, hdst⟩ := exec_decode_delivered hi h hok
  refine ⟨hres.bpp_of_dualColor hk, fun j k hj hlt => ?_⟩
  have hbyte : j * e.toNat + k < t.count.toNat * e.toNat :=
    calc j * e.toNat + k < (j + 1) * e.toNat := by rw [Nat.succ_mul]; exact Nat.add_lt_add_left hlt _
      _ ≤ t.count.toNat * e.toNat := Nat.mul_le_mul_right _ hj
  rw [hdst, if_pos hbyte, decodedByte_of_dualColor hk _ hlt]

/-! An operation issued twice (R129, R117, R98, R53, R5) -/

/-- The registers that an operation gives its results in (10_state.md R26). -/
def State.results (s : State) := (s.count, s.result, s.rvalid)

/-- The state `u` holds what `t` holds, but for the records of reads. -/
structure Repeated (t u : State) : Prop where
  inputs : u.inputs = t.inputs
  err : u.err = t.err
  results : u.results = t.results
  dst : ∀ a, Memory.read u.dst a = Memory.read t.dst a

theorem raise_repeated (s : State) (c : ErrCode) : Repeated (s.raise c) ((s.raise c).raise c) :=
  ⟨rfl, rfl, rfl, fun _ => rfl⟩

theorem parseStep_results (s : State) : (parseStep s).results = s.results := by
  simp only [State.results, parseStep_keeps s]

theorem parseStep_dst (s : State) : (parseStep s).dst = s.dst := by simp only [parseStep_keeps s]

/-- PARSE where the inputs are those that a PARSE left finds the same Header or fault, so it leaves them as they are. -/
theorem parseStep_again {s t : State} (h : t.inputs = (parseStep s).inputs) :
    (parseStep t).inputs = t.inputs ∧ (parseStep t).err = (parseStep s).err := by
  have hunpack : unpackHeader t.srcLen t.src = unpackHeader s.srcLen s.src := by
    rw [unpackHeader_eq_of_inputs h]
    simp only [parseStep_keeps s]
  unfold parseStep at h ⊢
  rw [hunpack]
  cases hu : (unpackHeader s.srcLen s.src).2 with
  | error e => exact ⟨rfl, rfl⟩
  | ok hd =>
    rw [hu] at h
    have hcommit : t.inputs.commitHeader hd = t.inputs := by rw [h]; rfl
    exact ⟨hcommit, rfl⟩

theorem parseStep_repeated (s : State) : Repeated (parseStep s) (parseStep (parseStep s)) where
  inputs := (parseStep_again rfl).1
  err := (parseStep_again rfl).2
  results := parseStep_results _
  dst _ := by rw [parseStep_dst]

/-- A body leaves the inputs of its operation as they are (10_state.md R35). -/
theorem bodyOf_inputs {i : Instr} (hi : i ≠ .parse) (s : State) : (bodyOf i s).inputs = s.inputs := by
  rcases body_cases i hi s with ⟨e, -, h⟩ | h
  · rw [h]
    rfl
  · exact (congrArg State.inputs h.rest :)

/-- After a run whose body started at `p`, the body of the second run starts at the same inputs and at what the first
run left. -/
theorem bodyStart_again {w : Bool} {s p t : State} (hp : BodyStart w s p) (ht : t.inputs = p.inputs) :
    ∃ q, BodyStart w t q ∧ q.inputs = p.inputs ∧ q.results = t.results ∧ q.dst = t.dst := by
  rcases bodyStart_cases hp with ⟨rfl, rfl⟩ | ⟨rfl, rfl, hok⟩
  · exact ⟨t, .inl ⟨rfl, rfl⟩, ht, rfl, rfl⟩
  · obtain ⟨hin, herr⟩ := parseStep_again ht
    exact ⟨parseStep t, .inr ⟨rfl, rfl, herr.trans hok⟩, hin.trans ht, parseStep_results t, parseStep_dst t⟩

/-- Bytes written twice over are as they were after the first time. -/
theorem overwrite_again {m m' m'' : Memory} {n : Nat} {b : Nat → Byte}
    (h : ∀ x, Memory.read m' x = if x < n then b x else Memory.read m x)
    (h' : ∀ x, Memory.read m'' x = if x < n then b x else Memory.read m' x) (x : Nat) :
    Memory.read m'' x = Memory.read m' x := by
  rw [h']
  split
  · next hx => rw [h, if_pos hx]
  · rfl

theorem expandStep_dst_of_ok {sz : Nat} {s : State} (hok : (expandStep sz s).err = .ok) (x : Nat) :
    Memory.read (expandStep sz s).dst x =
      if x < s.regN.toNat * sz then
        byteOf (if Memory.sel s.src s.srcOff.toNat (x / sz) then s.pal1 else s.pal0) (x % sz)
      else Memory.read s.dst x := by
  rcases expandStep_cases sz s with ⟨-, h⟩ | ⟨-, -, h⟩ | ⟨-, -, h⟩ <;> rw [h] at hok ⊢
  · cases hok
  · cases hok
  · exact read_expandInto ..

section Again
variable {i : Instr} {p q : State}

theorem expandStep_again_dst {sz : Nat} (hin : q.inputs = p.inputs) (hdst : q.dst = (expandStep sz p).dst)
    (hok : (expandStep sz p).err = .ok) (hok' : (expandStep sz q).err = .ok) (a : Nat) :
    Memory.read (expandStep sz q).dst a = Memory.read (expandStep sz p).dst a := by
  refine overwrite_again (expandStep_dst_of_ok hok) (fun x => ?_) a
  rw [expandStep_dst_of_ok hok', regN_eq_of_inputs hin, src_eq_of_inputs hin, srcOff_eq_of_inputs hin,
    pal0_eq_of_inputs hin, pal1_eq_of_inputs hin, hdst]

/-- Both runs of a decode deliver the same bytes: they leave the same count, header and SRC. -/
theorem decode_again_dst {e : BitVec 4} {w : Bool} (hi : IsDecode e w i) (he : legalEsz e)
    (hdst : q.dst = (bodyOf i p).dst) (hagrees : Agrees i p q (bodyOf i p) (bodyOf i q))
    (hok : (bodyOf i p).err = .ok) (a : Nat) :
    Memory.read (bodyOf i q).dst a = Memory.read (bodyOf i p).dst a := by
  have hwrites : writesCount i = true := by rcases hi with rfl | rfl <;> rfl
  have hin := hagrees.effect.inputs
  have hfirst := bodyOf_decode_delivered hi he hok
  have hsecond := bodyOf_decode_delivered hi he (hagrees.effect.err.symm.trans hok)
  refine overwrite_again hfirst.dst (fun x => ?_) a
  rw [hsecond.dst, ← hagrees.count hok hwrites, ← header_eq_of_inputs hin, ← src_eq_of_inputs hin, hdst]

/-- A body that runs again on the same inputs and on the DST it left writes nothing new there. -/
theorem bodyOf_again_dst (hin : q.inputs = p.inputs) (hdst : q.dst = (bodyOf i p).dst) (a : Nat) :
    Memory.read (bodyOf i q).dst a = Memory.read (bodyOf i p).dst a := by
  have hagrees := bodyOf_agrees i hin.symm
  have kept (h : (bodyOf i q).dst = q.dst) : Memory.read (bodyOf i q).dst a = Memory.read (bodyOf i p).dst a := by
    rw [h, hdst]
  by_cases hi : i = .parse
  · exact kept (by rw [hi, bodyOf, parseStep_dst])
  rcases body_cases i hi q with ⟨c, -, hq⟩ | hq
  · exact kept (by rw [hq, State.raise_dst])
  · have hokq : (bodyOf i q).err = .ok := by rw [hq.rest]
    have hokp := hagrees.effect.err.trans hokq
    cases i with
    | parse | isimg | getw | geth | cntImg | cntT => exact kept (bodyOf_dst_of_not_writesDst rfl q)
    | expand e =>
      by_cases he : legalEsz e
      · rw [bodyOf_expand he] at hdst hokp hokq ⊢
        rw [bodyOf_expand he]
        exact expandStep_again_dst hin hdst hokp hokq a
      · exact kept (by rw [bodyOf_expand_illegal he, State.raise_dst])
    | decBuf e w =>
      by_cases he : legalEsz e
      · exact decode_again_dst (.inl rfl) he hdst hagrees hokp a
      · exact kept (by rw [bodyOf_decBuf_illegal he, State.raise_dst])
    | decFix e w =>
      by_cases he : legalEsz e
      · exact decode_again_dst (.inr rfl) he hdst hagrees hokp a
      · exact kept (by rw [bodyOf_decFix_illegal he, State.raise_dst])

/-- A result register is given the same value again, or it is not written. -/
theorem bodyOf_again_results (hi : i ≠ .parse) (hin : q.inputs = p.inputs)
    (hresults : q.results = (bodyOf i p).results) : (bodyOf i q).results = (bodyOf i p).results := by
  have hagrees := bodyOf_agrees i hin.symm
  rcases body_cases i hi q with ⟨c, -, hq⟩ | hq
  · rw [hq]
    exact hresults
  · have hokp := hagrees.effect.err.trans (congrArg State.err hq.rest)
    obtain ⟨hcount, hresult, hrvalid⟩ : q.count = (bodyOf i p).count ∧ q.result = (bodyOf i p).result ∧
        q.rvalid = (bodyOf i p).rvalid := by
      simpa only [State.results, Prod.mk.injEq] using hresults
    have hc : (bodyOf i q).count = (bodyOf i p).count := by
      cases hw : writesCount i with
      | true => exact (hagrees.count hokp hw).symm
      | false => exact (hq.count hw).trans hcount
    have hr : (bodyOf i q).result = (bodyOf i p).result ∧ (bodyOf i q).rvalid = (bodyOf i p).rvalid := by
      cases hw : writesResult i with
      | true => exact (hagrees.result hokp hw).imp Eq.symm Eq.symm
      | false => exact (hq.result hw).imp (·.trans hresult) (·.trans hrvalid)
    rw [State.results, State.results, hc, hr.1, hr.2]

theorem bodyOf_again (hi : i ≠ .parse) (hin : q.inputs = p.inputs) (hresults : q.results = (bodyOf i p).results)
    (hdst : q.dst = (bodyOf i p).dst) : Repeated (bodyOf i p) (bodyOf i q) where
  inputs := (bodyOf_agrees i hin.symm).effect.inputs.symm
  err := (bodyOf_agrees i hin.symm).effect.err.symm
  results := bodyOf_again_results hi hin hresults
  dst := bodyOf_again_dst hin hdst

end Again

/-- Every operation repeats itself: an ill-formed one raises its fault again, PARSE finds the same header words, and a
body starts at the same inputs. -/
theorem exec_repeated {i : Instr} {s t u : State} (ht : exec i s = .next t) (hu : exec i t = .next u) :
    Repeated t u := by
  rcases exec_cases ht with ⟨hill, rfl⟩ | ⟨rfl, rfl⟩ | ⟨-, hwell, hw, hno, rfl⟩ | ⟨hi, hwell, p, hp, rfl⟩
  · cases (exec_ill_formed hill _).symm.trans hu
    exact raise_repeated s _
  · cases hu
    exact parseStep_repeated s
  · have hstop : wForm i.wBit (bodyOf i) (parseStep s) = parseStep (parseStep s) := by
      rw [hw, wForm_true, if_neg ((parseStep_repeated s).err ▸ hno)]
    cases (exec_eq_wForm hwell _).symm.trans hu
    rw [hstop]
    exact parseStep_repeated s
  · obtain ⟨q, hq, hin, hresults, hdst⟩ := bodyStart_again hp (bodyOf_inputs hi p)
    cases (exec_of_bodyStart hwell hq).symm.trans hu
    exact bodyOf_again hi hin hresults hdst

/-- Settles O50: `exec_repeated`, register by register. -/
theorem operationsAreIdempotent : Obligations.OperationsAreIdempotent := by
  intro i s t u ht hu
  obtain ⟨hin, herr, hresults, hdst⟩ := exec_repeated ht hu
  obtain ⟨hcount, hresult, hrvalid⟩ : u.count = t.count ∧ u.result = t.result ∧ u.rvalid = t.rvalid := by
    simpa only [State.results, Prod.mk.injEq] using hresults
  exact ⟨herr, header_eq_of_inputs hin, hvalid_eq_of_inputs hin, dimv_eq_of_inputs hin, palv_eq_of_inputs hin, hcount,
    hresult, hrvalid, hdst⟩

end Sys2Proof.Machine
end

section
/-! PROOFS. The exception statements (60_exceptions.md). R140, that a fault is precise, is two facts about halves: a body
that faults has changed nothing but `ERR` (`bodyOf_of_fault`), and a PARSE that faults has recorded its reads beside
(`parseStep_of_fault`). R142, that the next command runs normally whatever `ERR` holds, is a replay from another `ERR`:
no check looks at it, and each way in which an operation ends overwrites it. -/

namespace Sys2Proof.Machine

/-! An illegal element size (assumption log 7) -/

/-- Settles O51: each of the four terms is ill-formed, which is all that `exec_ill_formed` asks for. -/
theorem illegalSizesAreRaisedFirst : Obligations.IllegalSizesAreRaisedFirst := fun e w s he =>
  have hill : decide (legalEsz e) = false := decide_eq_false he
  ⟨exec_ill_formed (i := .cntT e w) hill s, exec_ill_formed (i := .expand e) hill s,
    exec_ill_formed (i := .decBuf e w) hill s, exec_ill_formed (i := .decFix e w) hill s⟩

/-! A fault is precise (R140) -/

/-- From `s` to `t` nothing changes but `ERR` and the record of reads (assumption log 4). -/
def OnlyErrAndReads (s t : State) : Prop :=
  ∃ reads, t = { s with err := t.err, srcReads := s.srcReads ++ reads }

theorem raise_onlyErrAndReads (s : State) (e : ErrCode) : OnlyErrAndReads s (s.raise e) :=
  ⟨[], by rw [List.append_nil]; rfl⟩

/-- A body that ends with a fault has raised it where it started, for a body that does its work ends with `ERR = 0`. -/
theorem bodyOf_of_fault {i : Instr} (hi : i ≠ .parse) {p : State} (hf : (bodyOf i p).err ≠ .ok) :
    bodyOf i p = p.raise (bodyOf i p).err := by
  rcases body_cases i hi p with ⟨e, -, h⟩ | h
  · rw [h, State.raise_err]
  · exact absurd (congrArg State.err h.rest) hf

/-- A PARSE that ends with a fault commits no Header (40_header_unpack.md R91). -/
theorem parseStep_of_fault {s : State} (hf : (parseStep s).err ≠ .ok) : OnlyErrAndReads s (parseStep s) := by
  rcases parseStep_cases s with ⟨e, -, h⟩ | ⟨hd, -, h⟩
  · rw [h]
    exact ⟨_, rfl⟩
  · exact absurd (congrArg State.err h) hf

theorem ne_parse_of_wBit {i : Instr} (hw : i.wBit = true) : i ≠ .parse := by
  rintro rfl
  cases hw

/-- The exception of R140: the body of a W form raises its fault in the state that a successful PARSE left. -/
theorem exec_fault_after_parse {i : Instr} {s p t : State} (hi : i.wellFormed = true) (hw : i.wBit = true)
    (hp : exec .parse s = .next p) (hok : p.err = .ok) (h : exec i s = .next t) (hf : t.err ≠ .ok) :
    t = p.raise t.err := by
  rw [exec_wForm hi hw hp, if_pos hok, exec_plain hi] at h
  cases h
  exact bodyOf_of_fault (ne_parse_of_wBit hw) hf

/-- Every other fault: of an ill-formed term, of PARSE alone, of the PARSE half of a W form, of a body without `W`. -/
theorem exec_fault_otherwise {i : Instr} {s t : State} (h : exec i s = .next t) (hf : t.err ≠ .ok)
    (hno : ¬(i.wellFormed = true ∧ i.wBit = true ∧ (parseStep s).err = .ok)) : OnlyErrAndReads s t := by
  rcases exec_cases h with ⟨-, rfl⟩ | ⟨-, rfl⟩ | ⟨-, -, -, -, rfl⟩ | ⟨hi, hwell, p, hp, rfl⟩
  · exact raise_onlyErrAndReads s _
  · exact parseStep_of_fault hf
  · exact parseStep_of_fault hf
  · rcases bodyStart_cases hp with ⟨-, rfl⟩ | ⟨hw, rfl, hok⟩
    · rw [bodyOf_of_fault hi hf]
      exact raise_onlyErrAndReads p _
    · exact absurd ⟨hwell, hw, hok⟩ hno

/-- Settles O43: the exception of R140, and every other fault. -/
theorem faultsArePrecise : Obligations.FaultsArePrecise := by
  intro i s p t hp h hf
  refine ⟨fun ⟨hi, hw, hok⟩ => exec_fault_after_parse hi hw hp hok h hf, fun hno => ?_⟩
  cases hp
  exact exec_fault_otherwise h hf hno

/-! What `ERR` held does not matter (R142). `s.raise c` is the state `s` with `c` in `ERR`. -/

section Rules
variable (s : State) (c : ErrCode)

/-! Each end of an operation overwrites `ERR` -/

theorem State.raise_raise (e : ErrCode) : (s.raise c).raise e = s.raise e := rfl
theorem State.giveResult_raise (v : BitVec 32) : (s.raise c).giveResult v = s.giveResult v := rfl
theorem State.giveNoResult_raise : (s.raise c).giveNoResult = s.giveNoResult := rfl
theorem State.giveCount_raise (n : Nat) : (s.raise c).giveCount n = s.giveCount n := rfl

/-! The shared operations do not look at `ERR` -/

theorem spanInSource_raise (a n : Nat) : spanInSource (s.raise c) a n = spanInSource s a n := rfl
theorem decodeInto_raise (sz : Nat) (r : Resolved) : decodeInto (s.raise c) sz r = decodeInto s sz r := rfl

theorem needHeader_raise {op : State → State} (hop : op (s.raise c) = op s) :
    needHeader (s.raise c) op = needHeader s op := by
  rw [needHeader, needHeader, hop, State.raise_hvalid, State.raise_raise]

theorem needEsz_raise (e : BitVec 4) (body : Nat → State → State)
    (hbody : ∀ sz, body sz (s.raise c) = body sz s) :
    needEsz e (s.raise c) (fun sz => body sz (s.raise c)) = needEsz e s fun sz => body sz s := by
  rw [needEsz, needEsz, hbody, State.raise_raise]

/-- PARSE takes its reads and its Header or fault from `SRC_LEN` and SRC (40_header_unpack.md R89). -/
theorem parseStep_raise : parseStep (s.raise c) = parseStep s := by
  unfold parseStep
  rw [State.raise_srcLen, State.raise_src]
  cases (unpackHeader s.srcLen s.src).2 <;> rfl

/-- The W form (40_header_unpack.md R96) looks at the `ERR` that its own PARSE left, not at the one before. -/
theorem wForm_raise (w : Bool) {op : State → State} (hop : op (s.raise c) = op s) :
    wForm w op (s.raise c) = wForm w op s := by
  cases w with
  | false => exact hop
  | true => rw [wForm_true, wForm_true, parseStep_raise]

/-! The bodies of the operations -/

theorem isimgStep_raise : isimgStep (s.raise c) = isimgStep s :=
  needHeader_raise s c (State.giveResult_raise s c _)

theorem accessorStep_raise (field : Header → BitVec 16) :
    accessorStep field (s.raise c) = accessorStep field s :=
  needHeader_raise s c (by rw [State.raise_header, State.giveResult_raise, State.giveNoResult_raise])

theorem cntImgStep_raise : cntImgStep (s.raise c) = cntImgStep s :=
  needHeader_raise s c (by rw [State.raise_header, State.raise_raise, State.giveCount_raise])

theorem cntTStep_raise (sz : Nat) : cntTStep sz (s.raise c) = cntTStep sz s :=
  needHeader_raise s c (by rw [State.raise_header, State.raise_raise, State.giveCount_raise])

/-- EXPAND that succeeds sets `ERR` to 0 as it writes DST (42_bitplane_expand.md R112). -/
theorem expandStep_raise (sz : Nat) : expandStep sz (s.raise c) = expandStep sz s := by
  unfold expandStep
  rw [spanInSource_raise, State.raise_raise, State.raise_raise]
  rfl

theorem decodeDeliver_raise (sz : Nat) (r : Resolved) :
    decodeDeliver (s.raise c) sz r = decodeDeliver s sz r := by
  unfold decodeDeliver
  rw [spanInSource_raise, State.raise_raise, decodeInto_raise]
  rfl

theorem decBufStep_raise (sz : Nat) : decBufStep sz (s.raise c) = decBufStep sz s := by
  refine needHeader_raise s c ?_
  rw [State.raise_header]
  cases decodeResolve s.header sz with
  | error e => exact State.raise_raise s c e
  | ok r => exact ite_congr rfl (fun _ => State.raise_raise s c _) (fun _ => decodeDeliver_raise s c sz r)

theorem decFixStep_raise (sz : Nat) : decFixStep sz (s.raise c) = decFixStep sz s := by
  refine needHeader_raise s c ?_
  rw [State.raise_header]
  cases decodeResolve s.header sz with
  | error e => exact State.raise_raise s c e
  | ok r =>
    refine ite_congr rfl (fun _ => State.raise_raise s c _) fun _ => ?_
    exact ite_congr rfl (fun _ => State.raise_raise s c _) (fun _ => decodeDeliver_raise s c sz r)

theorem bodyOf_raise (i : Instr) : bodyOf i (s.raise c) = bodyOf i s := by
  cases i with
  | parse => exact parseStep_raise s c
  | isimg w => exact isimgStep_raise s c
  | getw w => exact accessorStep_raise s c Header.width
  | geth w => exact accessorStep_raise s c Header.height
  | cntImg w => exact cntImgStep_raise s c
  | cntT e w => exact needEsz_raise s c e cntTStep (cntTStep_raise s c)
  | expand e => exact needEsz_raise s c e expandStep (expandStep_raise s c)
  | decBuf e w => exact needEsz_raise s c e decBufStep (decBufStep_raise s c)
  | decFix e w => exact needEsz_raise s c e decFixStep (decFixStep_raise s c)

end Rules

/-- Settles O44: an ill-formed term overwrites `ERR` at once, a well-formed one is the W form of its body. -/
theorem errNeverInfluencesACommand : Obligations.ErrNeverInfluencesACommand := by
  intro i s c
  change exec i (s.raise c) = exec i s
  cases hi : i.wellFormed with
  | false => rw [exec_ill_formed hi, exec_ill_formed hi, State.raise_raise]
  | true => rw [exec_eq_wForm hi, exec_eq_wForm hi, wForm_raise s c i.wBit (bodyOf_raise s c i)]

end Sys2Proof.Machine
end

section
/-! PROOFS. The statements about reset and about which moves complete (70_reset_and_hazards.md). Reset is one table of
zeros, read in any state that has had the reset event. A move completes exactly when it is inside the contract: forth by
the kind of the move (`performMove_of_inContract`), back by what a completed move can have been (`MoveEffect`). -/

namespace Sys2Proof.Machine

/-! Reset (R158) -/

/-- Each row of the register table, `STATUS` among them, holds 0 at power-on. -/
theorem State.readReg_reset (r : BitVec 5) : State.reset.readReg r = 0 := by
  unfold State.readReg
  split <;> rfl

/-- What the reset event keeps is no register: every register reads as at power-on. -/
theorem State.readReg_resetUnit (s : State) (r : BitVec 5) : s.resetUnit.readReg r = 0 := State.readReg_reset r

/-- Settles O18: the flags are fields of `State.reset`, and the event is the move `resetUnit`. -/
theorem resetClearsEveryRegister : Obligations.ResetClearsEveryRegister := by
  refine ⟨State.readReg_reset, rfl, rfl, rfl, rfl, rfl, fun s rest hmoves => ?_⟩
  exact ⟨_, step_cons hmoves, State.readReg_resetUnit _, State.resetUnit_err _, State.resetUnit_hvalid _,
    State.resetUnit_dimv _, State.resetUnit_palv _, State.resetUnit_rvalid _, State.resetUnit_src _,
    State.resetUnit_dst _, State.resetUnit_moves _⟩

/-! Which moves complete (R166) -/

/-- Every word written to `CMD` completes: as its operation, or as the fault `IllegalCommand`. -/
theorem issueCommand_next (c : Command) (s : State) : ∃ t, issueCommand c s = .next t := by
  by_cases hd : ∃ i, decode c = .ok i
  · obtain ⟨i, hi⟩ := hd
    rw [issueCommand_of_ok hi]
    exact exec_next i s
  · exact ⟨_, issueCommand_of_illegal hd s⟩

theorem hostWrite_next (r : BitVec 5) (v : BitVec 64) (s : State) : ∃ t, hostWrite r v s = .next t := by
  by_cases hr : r = 31
  · subst hr
    rw [hostWrite_command]
    exact issueCommand_next _ s
  · exact ⟨_, hostWrite_register hr v s⟩

theorem performMove_of_inContract {mv : HostMove} (hmv : mv.inContract = true) (s : State) :
    ∃ t, performMove mv s = .next t := by
  cases mv with
  | writeReg r v => exact hostWrite_next r v s
  | readReg r => exact ⟨_, rfl⟩
  | readDst a => exact ⟨_, hostReadDst_of_lt (of_decide_eq_true hmv) s⟩
  | writeDst a b => exact ⟨_, hostWriteDst_of_lt (of_decide_eq_true hmv) b s⟩
  | supplySrc ws => exact ⟨_, hostSupplySrc_of_le (of_decide_eq_true hmv) s⟩
  | resetUnit => exact ⟨_, rfl⟩
  | breach b => exact absurd hmv Bool.false_ne_true

/-- Each case of `MoveEffect` carries the bound that the contract asks for, where it asks for one. -/
theorem MoveEffect.inContract {s t : State} {mv : HostMove} (h : MoveEffect s mv t) : mv.inContract = true := by
  cases h with
  | operand | command | illegal | readReg | resetUnit => rfl
  | readDst _ ha | writeDst _ _ ha => exact decide_eq_true ha
  | supplySrc _ hw => exact decide_eq_true hw

/-- For an issued operation: the coming moves are the host's, among what `exec_hostOwned` keeps. -/
theorem MoveEffect.moves_eq {s t : State} {mv : HostMove} (h : MoveEffect s mv t) : t.moves = s.moves := by
  cases h with
  | operand r v _ => exact State.writeReg_moves s r v
  | command v i _ _ hexec =>
    have howned := exec_hostOwned hexec
    simp only [State.hostOwned, Prod.mk.injEq] at howned
    obtain ⟨-, -, -, -, -, -, -, -, hmoves⟩ := howned
    exact hmoves
  | illegal | readReg | readDst | writeDst | supplySrc | resetUnit => rfl

/-- Settles O10: a step performs its move on the state whose moves are the rest, and `MoveEffect` says what a completed
move was and what it left. -/
theorem movesInContractComplete : Obligations.MovesInContractComplete := by
  intro s mv rest hmoves
  rw [step_cons hmoves]
  refine ⟨fun hin => ?_, fun hout t ht => ?_⟩
  · obtain ⟨t, ht⟩ := performMove_of_inContract hin { s with moves := rest }
    exact ⟨t, ht, (performMove_effect ht).moves_eq⟩
  · exact Bool.false_ne_true (hout.symm.trans (performMove_effect ht).inContract)

end Sys2Proof.Machine
end
